-- ==== Sys2Proof/Word.lean ====
section
/-! DEFINITION. The bit-vector types of the chipmunk CORE and the index types of its named items (spec/00_scope.md
R5, R7: every value is unsigned, bit 0 is the least significant bit). -/

namespace Sys2Proof

/-- 8 bits: a general register, a timer, a byte of memory (R5 `XLEN`). -/
abbrev Byte := BitVec 8

/-- 16 bits: an instruction word, `I`, `PC`, a call stack entry (R5 `ILEN`, `PCLEN`, `STACK_W`). -/
abbrev Word := BitVec 16

/-- The 12-bit address field `NNN` (R9). -/
abbrev Addr12 := BitVec 12

/-- 4 bits: the row count `N` of a draw (R9). -/
abbrev Nibble := BitVec 4

/-- One row of the framebuffer: 64 one-bit pixels, column `x` in bit `x` (R24; the layout inside a row is the model's,
log 20). -/
abbrev ScreenRow := BitVec 64

/-- A column of the framebuffer (R24). -/
abbrev Col := Fin 64

/-- A row of the framebuffer (R24). -/
abbrev Row := Fin 32

/-- The index of a general register: a 4-bit field of the instruction word, so every encodable index names a
register (R13). -/
abbrev Reg := Fin 16

/-- A key code, 0 to 15 (R124). -/
abbrev KeyCode := Fin 16

/-- Register 15, `VF`, which certain instructions also write as a flag (R14). -/
abbrev vf : Reg := 15

end Sys2Proof
end

