-- ==== Sys2Proof/Syntax.lean ====
section
/-! DEFINITION. The instruction set: one constructor for each of the 35 rows of spec/opcode_table.json
(spec/30_encoding.md R59), with its operand fields (R9, R55) and nothing else. -/

namespace Sys2Proof

/-- The 35 instruction variants of R59, in the rule's order. -/
inductive Instr where
  /-- `SYS nnn`, 0nnn other than 00E0 and 00EE (R70). -/
  | nop (nnn : Addr12)
  /-- `CLS`, 00E0 (R106). -/
  | cls
  /-- `RET`, 00EE (R71). -/
  | ret
  /-- `JP nnn`, 1nnn (R72). -/
  | jp (nnn : Addr12)
  /-- `CALL nnn`, 2nnn (R74). -/
  | call (nnn : Addr12)
  /-- `SE Vx, nn`, 3xnn (R75). -/
  | seImm (x : Reg) (nn : Byte)
  /-- `SNE Vx, nn`, 4xnn (R76). -/
  | sneImm (x : Reg) (nn : Byte)
  /-- `SE Vx, Vy`, 5xy- (R77). -/
  | seReg (x y : Reg)
  /-- `LD Vx, nn`, 6xnn (R82). -/
  | ldImm (x : Reg) (nn : Byte)
  /-- `ADD Vx, nn`, 7xnn (R83). -/
  | addImm (x : Reg) (nn : Byte)
  /-- `LD Vx, Vy`, 8xy0 (R84). -/
  | ldReg (x y : Reg)
  /-- `OR Vx, Vy`, 8xy1 (R85). -/
  | or (x y : Reg)
  /-- `AND Vx, Vy`, 8xy2 (R86). -/
  | and (x y : Reg)
  /-- `XOR Vx, Vy`, 8xy3 (R87). -/
  | xor (x y : Reg)
  /-- `ADD Vx, Vy`, 8xy4 (R88). -/
  | addReg (x y : Reg)
  /-- `SUB Vx, Vy`, 8xy5 (R89). -/
  | sub (x y : Reg)
  /-- `SHR Vx, Vy`, 8xy6 (R90). -/
  | shr (x y : Reg)
  /-- `SUBN Vx, Vy`, 8xy7 (R91). -/
  | subn (x y : Reg)
  /-- `SHL Vx, Vy`, 8xyE (R92). -/
  | shl (x y : Reg)
  /-- `SNE Vx, Vy`, 9xy- (R78). -/
  | sneReg (x y : Reg)
  /-- `LD I, nnn`, Annn (R98). -/
  | ldI (nnn : Addr12)
  /-- `JP V0, nnn`, Bnnn (R73). -/
  | jpV0 (nnn : Addr12)
  /-- `RND Vx, nn`, Cxnn (R93). -/
  | rnd (x : Reg) (nn : Byte)
  /-- `DRW Vx, Vy, n`, Dxyn (R107). -/
  | drw (x y : Reg) (n : Nibble)
  /-- `SKP Vx`, Ex9E (R116). -/
  | skp (x : Reg)
  /-- `SKNP Vx`, ExA1 (R117). -/
  | sknp (x : Reg)
  /-- `LD Vx, DT`, Fx07 (R119). -/
  | ldVxDt (x : Reg)
  /-- `LD Vx, K`, Fx0A (R118). -/
  | ldVxK (x : Reg)
  /-- `LD DT, Vx`, Fx15 (R120). -/
  | ldDtVx (x : Reg)
  /-- `LD ST, Vx`, Fx18 (R121). -/
  | ldStVx (x : Reg)
  /-- `ADD I, Vx`, Fx1E (R99). -/
  | addI (x : Reg)
  /-- `LD F, Vx`, Fx29 (R100). -/
  | ldF (x : Reg)
  /-- `LD B, Vx`, Fx33 (R101). -/
  | ldB (x : Reg)
  /-- `LD [I], Vx`, Fx55 (R102). -/
  | ldMemVx (x : Reg)
  /-- `LD Vx, [I]`, Fx65 (R103). -/
  | ldVxMem (x : Reg)
  deriving DecidableEq, Repr

end Sys2Proof
end

