-- ==== Sys2Proof/WellFormed.lean ====
section
/-! DEFINITION. Which terms of `Instr` stand for an instruction word. Register indices and immediates are bounded by
their types, and no field has a reserved value (spec/30_encoding.md R63), so one condition is left: NOP is the no-op
space `0nnn` LESS the two words of CLS and RET (R61). -/

namespace Sys2Proof

/-- The payload of a NOP is not that of CLS (0x0E0) or RET (0x0EE) (R61). -/
def Instr.nopPayloadOk (nnn : Addr12) : Bool := nnn != 0x0E0#12 && nnn != 0x0EE#12

/-- The instruction is the meaning of some word (R58, R61, R63). -/
def Instr.wf : Instr → Bool
  | .nop nnn => nopPayloadOk nnn
  | .cls => true
  | .ret => true
  | .jp _ => true
  | .call _ => true
  | .seImm _ _ => true
  | .sneImm _ _ => true
  | .seReg _ _ => true
  | .ldImm _ _ => true
  | .addImm _ _ => true
  | .ldReg _ _ => true
  | .or _ _ => true
  | .and _ _ => true
  | .xor _ _ => true
  | .addReg _ _ => true
  | .sub _ _ => true
  | .shr _ _ => true
  | .subn _ _ => true
  | .shl _ _ => true
  | .sneReg _ _ => true
  | .ldI _ => true
  | .jpV0 _ => true
  | .rnd _ _ => true
  | .drw _ _ _ => true
  | .skp _ => true
  | .sknp _ => true
  | .ldVxDt _ => true
  | .ldVxK _ => true
  | .ldDtVx _ => true
  | .ldStVx _ => true
  | .addI _ => true
  | .ldF _ => true
  | .ldB _ => true
  | .ldMemVx _ => true
  | .ldVxMem _ => true

end Sys2Proof
end

