-- ==== Sys2Proof/Decode.lean ====
section
/-! DEFINITION. The decoder, total on any bytes (spec/30_encoding.md R56 to R62), and after it the encoder, written
from the same patterns (R59). -/

namespace Sys2Proof

/-- `X = w[11:8]` (R9). -/
def fieldX (w : Word) : Reg := (w.extractLsb' 8 4).toFin

/-- `Y = w[7:4]` (R9). -/
def fieldY (w : Word) : Reg := (w.extractLsb' 4 4).toFin

/-- `N = w[3:0]` (R9). -/
def fieldN (w : Word) : Nibble := w.extractLsb' 0 4

/-- `NN = w[7:0]` (R9). -/
def fieldNN (w : Word) : Byte := w.extractLsb' 0 8

/-- `NNN = w[11:0]` (R9). -/
def fieldNNN (w : Word) : Addr12 := w.extractLsb' 0 12

/-- The top nibble `w[15:12]` (R7). -/
def topNibble (w : Word) : Nat := (w.extractLsb' 12 4).toNat

/-- Top nibble 0x0: the whole word is compared with the two words of CLS and RET, every other word is a NOP (R57,
R58, R61). -/
def decode0 (w : Word) : Instr :=
  if w = 0x00E0#16 then .cls
  else if w = 0x00EE#16 then .ret
  else .nop (fieldNNN w)

/-- Top nibble 0x8: the low nibble selects (R57, R58). -/
def decode8 (w : Word) : Option Instr :=
  let x := fieldX w
  let y := fieldY w
  match (fieldN w).toNat with
  | 0x0 => some (.ldReg x y)
  | 0x1 => some (.or x y)
  | 0x2 => some (.and x y)
  | 0x3 => some (.xor x y)
  | 0x4 => some (.addReg x y)
  | 0x5 => some (.sub x y)
  | 0x6 => some (.shr x y)
  | 0x7 => some (.subn x y)
  | 0xE => some (.shl x y)
  | _ => none

/-- Top nibble 0xE: the low byte selects (R57, R58). -/
def decodeE (w : Word) : Option Instr :=
  match (fieldNN w).toNat with
  | 0x9E => some (.skp (fieldX w))
  | 0xA1 => some (.sknp (fieldX w))
  | _ => none

/-- Top nibble 0xF: the low byte selects (R57, R58). -/
def decodeF (w : Word) : Option Instr :=
  let x := fieldX w
  match (fieldNN w).toNat with
  | 0x07 => some (.ldVxDt x)
  | 0x0A => some (.ldVxK x)
  | 0x15 => some (.ldDtVx x)
  | 0x18 => some (.ldStVx x)
  | 0x1E => some (.addI x)
  | 0x29 => some (.ldF x)
  | 0x33 => some (.ldB x)
  | 0x55 => some (.ldMemVx x)
  | 0x65 => some (.ldVxMem x)
  | _ => none

/-- `Decode(w)` of R58: a pure, total function of the word; `none` is the outcome `Unknown(w)` (R56, R60). For top
nibbles 0x5 and 0x9 the low nibble is not examined (R62). -/
def decodeWord (w : Word) : Option Instr :=
  match topNibble w with
  | 0x0 => some (decode0 w)
  | 0x1 => some (.jp (fieldNNN w))
  | 0x2 => some (.call (fieldNNN w))
  | 0x3 => some (.seImm (fieldX w) (fieldNN w))
  | 0x4 => some (.sneImm (fieldX w) (fieldNN w))
  | 0x5 => some (.seReg (fieldX w) (fieldY w))
  | 0x6 => some (.ldImm (fieldX w) (fieldNN w))
  | 0x7 => some (.addImm (fieldX w) (fieldNN w))
  | 0x8 => decode8 w
  | 0x9 => some (.sneReg (fieldX w) (fieldY w))
  | 0xA => some (.ldI (fieldNNN w))
  | 0xB => some (.jpV0 (fieldNNN w))
  | 0xC => some (.rnd (fieldX w) (fieldNN w))
  | 0xD => some (.drw (fieldX w) (fieldY w) (fieldN w))
  | 0xE => decodeE w
  | 0xF => decodeF w
  | _ => none

/-- The word of two bytes, the byte at the lower address first: big-endian, fixed (spec/20_memory.md R39). -/
def wordOfBytes (hi lo : Byte) : Word := hi ++ lo

/-- The high byte of a word, which stands at the lower address (R39). -/
def highByte (w : Word) : Byte := w.extractLsb' 8 8

/-- The low byte of a word, which stands at the higher address (R39). -/
def lowByte (w : Word) : Byte := w.extractLsb' 0 8

/-- Why a byte sequence does not begin with an instruction. -/
inductive DecodeError where
  /-- The first word is `Unknown(w)` (R60). -/
  | unknownOpcode (w : Word)
  /-- Fewer than two bytes are left: no instruction is shorter than a word (R53), and a single trailing byte is never
  decoded (R64). -/
  | truncated
  deriving DecidableEq, Repr

/-- Decode the instruction at the head of a byte sequence and give the rest (R39, R53, R58). -/
def decode : List Byte → Except DecodeError (Instr × List Byte)
  | hi :: lo :: rest =>
    match decodeWord (wordOfBytes hi lo) with
    | some i => .ok (i, rest)
    | none => .error (.unknownOpcode (wordOfBytes hi lo))
  | [_] => .error .truncated
  | [] => .error .truncated

/-- A register index as a 4-bit field (R9). -/
def regBits (r : Reg) : BitVec 4 := BitVec.ofFin r

/-- Format `NNN`: opcode nibble, 12-bit address (R54). -/
def formatNNN (op : BitVec 4) (nnn : Addr12) : Word := op ++ nnn

/-- Format `XNN`: opcode nibble, register, immediate byte (R54); also format `X`, whose low byte is a sub-opcode. -/
def formatXNN (op : BitVec 4) (x : Reg) (nn : Byte) : Word := (op ++ regBits x) ++ nn

/-- Format `XYN`: opcode nibble, two registers, low nibble (R54); also format `XY`, whose low nibble is a sub-opcode or
is ignored. -/
def formatXYN (op : BitVec 4) (x y : Reg) (n : Nibble) : Word := ((op ++ regBits x) ++ regBits y) ++ n

/-- The word of an instruction by the patterns of R59; SE Vx,Vy and SNE Vx,Vy get their canonical low nibble 0 (R62). -/
def encode : Instr → Word
  | .nop nnn => formatNNN 0x0#4 nnn
  | .cls => 0x00E0#16
  | .ret => 0x00EE#16
  | .jp nnn => formatNNN 0x1#4 nnn
  | .call nnn => formatNNN 0x2#4 nnn
  | .seImm x nn => formatXNN 0x3#4 x nn
  | .sneImm x nn => formatXNN 0x4#4 x nn
  | .seReg x y => formatXYN 0x5#4 x y 0x0#4
  | .ldImm x nn => formatXNN 0x6#4 x nn
  | .addImm x nn => formatXNN 0x7#4 x nn
  | .ldReg x y => formatXYN 0x8#4 x y 0x0#4
  | .or x y => formatXYN 0x8#4 x y 0x1#4
  | .and x y => formatXYN 0x8#4 x y 0x2#4
  | .xor x y => formatXYN 0x8#4 x y 0x3#4
  | .addReg x y => formatXYN 0x8#4 x y 0x4#4
  | .sub x y => formatXYN 0x8#4 x y 0x5#4
  | .shr x y => formatXYN 0x8#4 x y 0x6#4
  | .subn x y => formatXYN 0x8#4 x y 0x7#4
  | .shl x y => formatXYN 0x8#4 x y 0xE#4
  | .sneReg x y => formatXYN 0x9#4 x y 0x0#4
  | .ldI nnn => formatNNN 0xA#4 nnn
  | .jpV0 nnn => formatNNN 0xB#4 nnn
  | .rnd x nn => formatXNN 0xC#4 x nn
  | .drw x y n => formatXYN 0xD#4 x y n
  | .skp x => formatXNN 0xE#4 x 0x9E#8
  | .sknp x => formatXNN 0xE#4 x 0xA1#8
  | .ldVxDt x => formatXNN 0xF#4 x 0x07#8
  | .ldVxK x => formatXNN 0xF#4 x 0x0A#8
  | .ldDtVx x => formatXNN 0xF#4 x 0x15#8
  | .ldStVx x => formatXNN 0xF#4 x 0x18#8
  | .addI x => formatXNN 0xF#4 x 0x1E#8
  | .ldF x => formatXNN 0xF#4 x 0x29#8
  | .ldB x => formatXNN 0xF#4 x 0x33#8
  | .ldMemVx x => formatXNN 0xF#4 x 0x55#8
  | .ldVxMem x => formatXNN 0xF#4 x 0x65#8

/-- The two bytes of an instruction as memory holds them, high byte first (R39). -/
def encodeBytes (i : Instr) : List Byte := [highByte (encode i), lowByte (encode i)]

/-- The word of which a row of spec/opcode_table.json gives the low `nbits` bits, the bits above them 0. -/
def tableWord (nbits w : Nat) : Word := BitVec.ofNat 16 (w % 2 ^ nbits)

/-- What the decoder reads from the word `w` of an opcode-table row, laid out in memory order (R39). -/
def decodeTableWord (nbits w : Nat) : Option Instr :=
  match decode [highByte (tableWord nbits w), lowByte (tableWord nbits w)] with
  | .ok (i, _) => some i
  | .error _ => none

end Sys2Proof
end

