-- ==== Sys2Proof/Config.lean ====
section
/-! DEFINITION. The configuration of the machine: the sizes the spec fixes (spec/00_scope.md R5), the interface types
of a frame's inputs (spec/45_frame_sequencer.md R124), and the values the spec leaves open, as constants without a
body. The three constants the spec asks a model to keep changeable (`RET_ADVANCE`, `SHIFT_DEST`, `FONT`) are in
Machine/Params.lean. -/

namespace Sys2Proof

/-- The one input event of a frame (R124): nothing, a key press after the character-to-key mapping, or the exit
request. There is no release event. -/
inductive InputEvent where
  | none
  | key (k : KeyCode)
  | exit
  deriving DecidableEq, Repr, Inhabited

/-- What a frame learns of time (R124 gives the two forms as alternatives).
`elapsed d`: the shared clock has advanced by `d` units since the frame before, so `now` is the last reading plus `d`
and is non-decreasing. `ticks c t`: the results of the two gates as free inputs (R6). DESIGN CHOICE (log 2), safe. -/
inductive TimeInput where
  | elapsed (d : Nat)
  | ticks (cpu t60 : Bool)
  deriving DecidableEq, Repr, Inhabited

/-- The inputs of one frame (R124): the event, the time, and the random byte, which only RND reads (R96). -/
structure FrameInput where
  ev   : InputEvent
  time : TimeInput
  rnd  : Byte
  deriving DecidableEq, Repr, Inhabited

namespace Config

/-- `STACK_CAP` (R5, R20). -/
def stackCap : Nat := 16

/-- `MEM_SIZE` (R5, R35). -/
def memSize : Nat := 4096

/-- `FONT_BASE` (R5). -/
def fontBase : Nat := 0

/-- `FONT_SIZE`: 16 glyphs of 5 bytes (R5, R40). -/
def fontSize : Nat := 80

/-- Bytes of one glyph (R40). -/
def glyphSize : Nat := 5

/-- `LOAD_BASE`: where the image is loaded, and the reset `PC` (R5, R33). -/
def loadBase : Nat := 0x200

/-- `ROM_MAX` (R5, R169). -/
def romMax : Nat := memSize - loadBase

/-- `SCR_W` (R5). -/
def scrW : Nat := 64

/-- `SCR_H` (R5). -/
def scrH : Nat := 32

/-- `CPU_INTERVAL`, in clock units: an argument with no value in the source (R5, decision D22). A free value of the
configuration. -/
opaque cpuInterval : Nat

/-- `T60_INTERVAL`, a sixtieth of a second, in clock units (R5). The unit of the clock is not in the spec, so how many
units make a sixtieth of a second is a free value. DESIGN CHOICE (log 3): it is a whole number. -/
opaque t60Interval : Nat

/-- Clock units in one second: sixty times `T60_INTERVAL`, which is what makes the gate a 60 Hz gate (R5). -/
def unitsPerSecond : Nat := 60 * t60Interval

/-- The inputs of frame `n` where the state does not list them: free values, one for each frame (R6, R96, R124,
R134). -/
opaque freeInput : Nat → FrameInput

end Config

end Sys2Proof
end

