-- ==== Sys2Proof/Machine/Params.lean ====
section
/-! DEFINITION. The three constants the spec asks a model to keep changeable because its source is doubtful or silent:
`FONT`, `RET_ADVANCE` and `SHIFT_DEST` (spec/00_scope.md R5). -/

namespace Sys2Proof.Machine

/-- `FONT` (R40): glyph `d` at offset `5*d`, top row first, the glyph in the high nibble. Glyph 0 is the source's;
glyphs 1 to F are the spec's default (decision D21). UNVERIFIED (log 6), unsafe for a claim that reads them. -/
def font : List Byte :=
  [0xF0#8, 0x90#8, 0x90#8, 0x90#8, 0xF0#8] ++
  [0x20#8, 0x60#8, 0x20#8, 0x20#8, 0x70#8] ++
  [0xF0#8, 0x10#8, 0xF0#8, 0x80#8, 0xF0#8] ++
  [0xF0#8, 0x10#8, 0xF0#8, 0x10#8, 0xF0#8] ++
  [0x90#8, 0x90#8, 0xF0#8, 0x10#8, 0x10#8] ++
  [0xF0#8, 0x80#8, 0xF0#8, 0x10#8, 0xF0#8] ++
  [0xF0#8, 0x80#8, 0xF0#8, 0x90#8, 0xF0#8] ++
  [0xF0#8, 0x10#8, 0x20#8, 0x40#8, 0x40#8] ++
  [0xF0#8, 0x90#8, 0xF0#8, 0x90#8, 0xF0#8] ++
  [0xF0#8, 0x90#8, 0xF0#8, 0x10#8, 0xF0#8] ++
  [0xF0#8, 0x90#8, 0xF0#8, 0x90#8, 0x90#8] ++
  [0xE0#8, 0x90#8, 0xE0#8, 0x90#8, 0xE0#8] ++
  [0xF0#8, 0x80#8, 0x80#8, 0x80#8, 0xF0#8] ++
  [0xE0#8, 0x90#8, 0x90#8, 0x90#8, 0xE0#8] ++
  [0xF0#8, 0x80#8, 0xF0#8, 0x80#8, 0xF0#8] ++
  [0xF0#8, 0x80#8, 0xF0#8, 0x80#8, 0x80#8]

/-- `RET_ADVANCE` (R5, R71): what RET adds to the popped value. UNVERIFIED (log 7): decision D10 against the source's
literal 0. -/
def retAdvance : Word := 2#16

/-- `SHIFT_DEST` (R5, R90, R92): the register a shift writes, of the two it names. UNVERIFIED (log 8): decision D3. -/
def shiftDest (x _y : Reg) : Reg := x

end Sys2Proof.Machine
end

