-- ==== Sys2Proof/Machine/State.lean ====
section
/-! DEFINITION. The state of the machine as plain data (spec/10_state.md), the fatal causes (spec/60_exceptions.md
R142), the outputs of a frame (spec/45_frame_sequencer.md R125), and the state after reset (R33). -/

namespace Sys2Proof.Machine

/-- Memory (R23, R35): the cells that differ from what an unlisted address reads as, addresses strictly rising. What an
unlisted address reads as is `Memory.background` (Machine/Ops.lean), the reset contents. -/
abbrev Memory := List Host.Cell

/-- The framebuffer: 32 rows of 64 one-bit pixels (R24, R105). -/
abbrev FrameBuffer := Vector ScreenRow 32

/-- The machine state `MS` (R26): it gates whether an instruction executes in a frame. -/
inductive MachineState where
  | normal
  | waitKeyPress (register : Reg)
  deriving DecidableEq, Repr

/-- The fatal causes of R142. Each is recorded in `RUN` by `State.raise` (Machine/Ops.lean), and the frame that raises it
answers a NEXT state: R141 says what a fatal does to the state. No step answers `Outcome.fault` (log 4, DESIGN CHOICE,
unsafe for a claim that takes a next state for success without reading `RUN`; Safety.lean says how to read it). -/
inductive Fault where
  /-- Raised by step 3 of a frame when the fetched word is unknown (R60, R143). Safe: the spec names this fatal. -/
  | unknownOpcode (w : Word)
  /-- Raised by step 3 of a frame when `PC` is at or above 0x0FFF (R42, R144). Safe: the spec names this fatal. -/
  | fetchOutOfRange
  /-- Raised by RET on an empty stack (R71, R145). Safe: the spec names this fatal. -/
  | stackUnderflow
  /-- Raised by CALL on a full stack (R74, R146). Safe: the spec's own choice D11, the machine stops. -/
  | stackOverflow
  /-- Raised in phase 2 by DRW, LD B, LD [I],Vx and LD Vx,[I] when the transfer would pass address 4095 (R43, R147).
  Safe: the spec's own choice D13, the machine stops. -/
  | memoryBounds
  /-- Raised in phase 2 by SKP and SKNP on a key code above 15 (R122, R148). Safe: the spec names this fatal. -/
  | keyIndex
  deriving DecidableEq, Repr

/-- Why an instruction has no meaning in the model. -/
inductive Refusal where
  /-- Raised by `exec` for an instruction that has no meaning yet; no arm of this model does. Safe. -/
  | notModelled (mnemonic : String)
  deriving DecidableEq, Repr

/-- The run status `RUN` (R27). `stopped` and `faulted` are terminal: nothing leaves them but reset (R141, R149). -/
inductive RunStatus where
  | running
  | stopped
  | faulted (cause : Fault)
  deriving DecidableEq, Repr

/-- A render event (R111): a whole-screen clear, or a pixel that is now lit (`lit`) or now unlit. -/
inductive RenderEvent where
  | clear
  | pixel (x : Col) (y : Row) (lit : Bool)
  deriving DecidableEq, Repr

/-- The register dump of a decode error (R150): the values at the moment of the fatal. `stack` holds the entries below
`SP`, newest first, so `SP` is its length. -/
structure Dump where
  v     : Vector Byte 16
  i     : Word
  pc    : Word
  stack : List Word
  dt    : Byte
  st    : Byte
  deriving DecidableEq, Repr

/-- The outputs of a frame (R125); the output `status` is the field `run` of the state. -/
structure FrameOutput where
  render : List RenderEvent
  beep   : Bool
  dump   : Option Dump
  deriving DecidableEq, Repr

/-- The outputs of a frame that emits nothing (R125). -/
def FrameOutput.empty : FrameOutput := { render := [], beep := false, dump := none }

/-- The machine (R13 to R28), with the outputs of the last frame (R125) and the model's own record of the inputs to come
(`inputs`, `frame`; log 1). -/
structure State where
  /-- `V[0]` to `V[15]` (R13). -/
  v : Vector Byte 16
  /-- The address register `I` (R15). -/
  i : Word
  /-- The program counter `PC` (R16). -/
  pc : Word
  /-- The live entries of the call stack, newest first; `SP` is the length (R20). -/
  stack : List Word
  /-- The delay timer `DT` (R21). -/
  dt : Byte
  /-- The sound timer `ST` (R22). -/
  st : Byte
  /-- `MEM` (R23). -/
  mem : Memory
  /-- `FB` (R24). -/
  fb : FrameBuffer
  /-- The keypad latch `KEY[0]` to `KEY[15]` (R25). -/
  key : Vector Bool 16
  /-- `MS` (R26). -/
  ms : MachineState
  /-- `RUN` (R27). -/
  run : RunStatus
  /-- `GATE_CPU.last` (R28). -/
  gateCpu : Nat
  /-- `GATE_60.last` (R28). -/
  gate60 : Nat
  /-- The last reading of the shared monotonic clock, in clock units (R124, R156). -/
  clock : Nat
  /-- The outputs of the last frame (R125). -/
  out : FrameOutput
  /-- MODEL'S OWN (log 1): the inputs of the frames to come, the next one first, as far as they are known. -/
  inputs : List FrameInput
  /-- MODEL'S OWN (log 1): the number of completed frames, which picks the free inputs where `inputs` is empty. -/
  frame : Nat
  deriving DecidableEq, Repr

/-- What a frame and an instruction answer. -/
abbrev Result := Host.Outcome State Fault Refusal

/-- The machine right after reset with the empty image (R33, R166, R167): memory is `FONT` then zero, so nothing is
listed. `State.boot` (Machine/Load.lean) is reset with any image. The values are R33's; those that the spec marks as its
own choice are log 5, the time of reset as time 0 is log 18. -/
def State.reset : State where
  v       := Vector.replicate 16 0#8
  i       := 0x0000#16
  pc      := 0x0200#16
  stack   := []
  dt      := 0#8
  st      := 0#8
  mem     := []
  fb      := Vector.replicate 32 0#64
  key     := Vector.replicate 16 false
  ms      := .normal
  run     := .running
  gateCpu := 0
  gate60  := 0
  clock   := 0
  out     := FrameOutput.empty
  inputs  := []
  frame   := 0

end Sys2Proof.Machine
end

