-- ==== Sys2Proof/Machine/Ops.lean ====
section
/-! DEFINITION. The named operations over registers, the stack, memory and the run status, each the one place where its
resource is read or written (spec/00_scope.md R8), and the raising of a fatal (spec/60_exceptions.md R141). -/

namespace Sys2Proof.Machine

/-! ### Registers -/

/-- `V[r]` (R8). No register is hardwired or banked (R13). -/
def State.reg (s : State) (r : Reg) : Byte := s.v[r.val]

/-- `V[r] <- b` (R8). -/
def State.setReg (s : State) (r : Reg) (b : Byte) : State := { s with v := s.v.set r.val b }

/-- `I <- w` (R8, R15). -/
def State.setI (s : State) (w : Word) : State := { s with i := w }

/-- `PC <- target` (R8); nothing checks the target (R18). -/
def State.setPc (s : State) (target : Word) : State := { s with pc := target }

/-- The default advance, `PC <- PC + 2` modulo 65536 (R17). -/
def State.advance (s : State) : State := s.setPc (s.pc + 2#16)

/-- The skip convention: `PC + 4` when the condition holds, `PC + 2` when not (R17, R69). -/
def State.skipIf (s : State) (cond : Bool) : State := s.setPc (s.pc + if cond then 4#16 else 2#16)

/-! ### Fatals -/

/-- `raise Fatal(cause)` (R141): `RUN <- Faulted(cause)`. Nothing else is saved or changed and control goes nowhere: there
is no trap entry, and no return from one (R154). That the rest of the frame does not happen is `finishFrame`'s
(Machine/Sequencer.lean), which reads `RUN`. -/
def State.raise (s : State) (cause : Fault) : State := { s with run := .faulted cause }

/-- The values the register dump holds (R150). -/
def State.dump (s : State) : Dump :=
  { v := s.v, i := s.i, pc := s.pc, stack := s.stack, dt := s.dt, st := s.st }

/-- A decode error: a fatal that also outputs the register dump (R125, R143, R144, R150). -/
def State.raiseDecode (s : State) (cause : Fault) : State :=
  { s.raise cause with out := { s.out with dump := some s.dump } }

/-! ### The call stack -/

/-- `SP`: the number of entries (R8, R20). -/
def State.sp (s : State) : Nat := s.stack.length

/-- `STACK[k]`, entry 0 the oldest; `none` at and above `SP`, where nothing can be observed (R8, R20). -/
def State.stackEntry (s : State) (k : Nat) : Option Word := s.stack.reverse[k]?

/-- `push(v)` (R8); the caller has tested for a full stack (R74). -/
def State.push (s : State) (w : Word) : State := { s with stack := w :: s.stack }

/-! ### Memory -/

/-- What an address that memory does not list reads as: the reset contents, `FONT` at 0 to 79 and zero elsewhere (R33,
R36, R40). -/
def Memory.background (a : Nat) : Byte :=
  if a < Config.fontSize then font.getD (a - Config.fontBase) 0#8 else 0#8

/-- `MEM[a]` (R8). -/
def Memory.read (m : Memory) (a : Nat) : Byte :=
  match m with
  | [] => Memory.background a
  | (a', b) :: rest => if a' = a then b else Memory.read rest a

/-- `MEM[a] <- b`, keeping the canonical form: writing what an unlisted address reads as removes the entry. -/
def Memory.write (m : Memory) (a : Nat) (b : Byte) : Memory :=
  match m with
  | [] => if b = Memory.background a then [] else [(a, b)]
  | (a', b') :: rest =>
    if a' < a then (a', b') :: Memory.write rest a b
    else if a' = a then (if b = Memory.background a then rest else (a, b) :: rest)
    else if b = Memory.background a then (a', b') :: rest
    else (a, b) :: (a', b') :: rest

/-- The bytes at `a`, `a+1`, ... in order (R8, R43). -/
def Memory.readBytes (m : Memory) (a : Nat) : Nat → List Byte
  | 0 => []
  | n + 1 => Memory.read m a :: Memory.readBytes m (a + 1) n

/-- Write the bytes at `a`, `a+1`, ..., lowest address first (R8, R43). -/
def Memory.writeBytes (m : Memory) (a : Nat) : List Byte → Memory
  | [] => m
  | b :: bs => Memory.writeBytes (Memory.write m a b) (a + 1) bs

/-- From `lo` on, addresses rise strictly and stay inside memory, and no entry equals what its address reads as
unlisted. -/
def Memory.wfFrom (lo : Nat) : Memory → Bool
  | [] => true
  | (a, b) :: rest =>
    decide (lo ≤ a) && decide (a < Config.memSize) && decide (b ≠ Memory.background a) && Memory.wfFrom (a + 1) rest

/-- The canonical form of memory: equal memories are equal lists. -/
def Memory.wf (m : Memory) : Bool := Memory.wfFrom 0 m

/-- The bounds check of R43, on unbounded integers: the `n` bytes at `addr` lie inside memory. -/
def inBounds (addr n : Nat) : Bool := decide (addr + n ≤ Config.memSize)

/-- `MemRead(addr, n)` (R8, R43): one test for the whole transfer; `none` where it fails and `MemoryBounds` is raised. -/
def State.memRead (s : State) (addr n : Nat) : Option (List Byte) :=
  if inBounds addr n then some (Memory.readBytes s.mem addr n) else none

/-- `MemWrite(addr, n, v)` with `n` the length of `v` (R8, R43); `none` where the test fails and no byte is written. -/
def State.memWrite (s : State) (addr : Nat) (bytes : List Byte) : Option State :=
  if inBounds addr bytes.length then some { s with mem := Memory.writeBytes s.mem addr bytes } else none

/-! ### The keypad latch -/

/-- `check(key_code)` for a code in range (R122, R160). -/
def State.keyPressed (s : State) (k : KeyCode) : Bool := s.key[k.val]

/-- No key flag set (R132). -/
def noKeys : Vector Bool 16 := Vector.replicate 16 false

/-! ### The inputs of the frame -/

/-- The inputs of the coming frame, and, while it runs, of the current one: the first one listed, and where none is
listed a free one (R124; log 1). -/
def State.frameInput (s : State) : FrameInput :=
  match s.inputs with
  | [] => Config.freeInput s.frame
  | inp :: _ => inp

/-- The random byte drawn for this frame (R96): every value is possible every time. -/
def State.randomByte (s : State) : Byte := s.frameInput.rnd

end Sys2Proof.Machine
end

