-- ==== Sys2Proof/Machine/Operands.lean ====
section
/-! DEFINITION. The operand forms: the zero-extension of fields and registers (spec/30_encoding.md R55), the one
addressing mode for data (spec/20_memory.md R46), the register blocks of the bulk transfers
(spec/42_index_memory.md R102, R103), and the values the instructions compute from an operand. -/

namespace Sys2Proof.Machine

/-- `zext_16(NNN)` (R55). -/
def zextAddr (nnn : Addr12) : Word := nnn.setWidth 16

/-- `zext_16(V[x])` (R99, R100). -/
def zextByte (b : Byte) : Word := b.setWidth 16

/-- The data address: `I`, whole, with no masking (R46). -/
def State.dataAddr (s : State) : Nat := s.i.toNat

/-- The number of registers a bulk transfer with field `x` moves, `x + 1` (R102, R103). -/
def bulkCount (x : Reg) : Nat := x.val + 1

/-- `[V[0], ..., V[x]]` (R102). -/
def State.regsUpTo (s : State) (x : Reg) : List Byte := s.v.toList.take (bulkCount x)

/-- `V[k] <- bytes[k]` for each byte there is, `k` from 0 (R103). -/
def State.loadRegs (s : State) (bytes : List Byte) : State :=
  { s with v := s.v.mapFinIdx fun k old _ => bytes.getD k old }

/-- `(I + x + 1) mod 65536`, what a bulk transfer leaves in `I` (R102, R103). -/
def State.iAfterBulk (s : State) (x : Reg) : Word := s.i + BitVec.ofNat 16 (bulkCount x)

/-- Hundreds, tens and ones of a byte, one digit a byte (R101). -/
def bcdDigits (b : Byte) : List Byte :=
  [BitVec.ofNat 8 (b.toNat / 100), BitVec.ofNat 8 (b.toNat / 10 % 10), BitVec.ofNat 8 (b.toNat % 10)]

/-- `5 * zext_16(V[x])`, the address of a glyph, never masked to the low nibble (R100). For a value above 15 the
product is the spec's inferred reading (decision D8): DEDUCED (log 15), unsafe. -/
def glyphAddr (b : Byte) : Word := BitVec.ofNat 16 Config.fontBase + BitVec.ofNat 16 Config.glyphSize * zextByte b

/-- `(zext_16(NNN) + zext_16(V[0])) mod 65536`, not masked to 12 bits (R73). -/
def State.indexedTarget (s : State) (nnn : Addr12) : Word := zextAddr nnn + zextByte (s.reg 0)

end Sys2Proof.Machine
end

