-- ==== Sys2Proof/Machine/Flags.lean ====
section
/-! DEFINITION. The flag computations (spec/41_alu.md R81, R88 to R92). `VF` is the only flag, a general register that is
written 0 or 1 (spec/10_state.md R14). -/

namespace Sys2Proof.Machine

/-- A flag as the byte `VF` receives: 0x00 or 0x01 (R81). -/
def flagByte (c : Bool) : Byte := if c then 1#8 else 0#8

/-- Carry out of bit 7 of `a + b` (R88). -/
def carryOut (a b : Byte) : Bool := decide (255 < a.toNat + b.toNat)

/-- Not-borrow of `a - b`: the minuend is at least the subtrahend (R89, R91). -/
def noBorrow (a b : Byte) : Bool := decide (b.toNat ≤ a.toNat)

/-- The bit a right shift by one drops (R90). -/
def bitShiftedOutRight (b : Byte) : Bool := b.getLsbD 0

/-- The bit a left shift by one drops (R92). -/
def bitShiftedOutLeft (b : Byte) : Bool := b.getLsbD 7

/-- `VF <- 1 if c else 0` (R81). -/
def State.setFlag (s : State) (c : Bool) : State := s.setReg vf (flagByte c)

/-- Result register first, `VF` second, so with `VF` as destination the flag is what remains (R81; the spec's own choice
D4, UNVERIFIED, log 19). -/
def State.setRegAndFlag (s : State) (x : Reg) (result : Byte) (flag : Bool) : State :=
  (s.setReg x result).setFlag flag

end Sys2Proof.Machine
end

