-- ==== Sys2Proof/Machine/Screen.lean ====
section
/-! DEFINITION. The framebuffer and the XOR-draw engine (spec/43_display.md R105, R108 to R112). -/

namespace Sys2Proof.Machine

/-- `FB[y][x]` (R8, R105). -/
def FrameBuffer.pixel (fb : FrameBuffer) (x : Col) (y : Row) : Bool := fb[y.val].getLsbD x.val

/-- `FB[y][x] <- FB[y][x] xor 1` (R108). -/
def FrameBuffer.flip (fb : FrameBuffer) (x : Col) (y : Row) : FrameBuffer :=
  fb.set y.val (fb[y.val] ^^^ BitVec.twoPow 64 x.val)

/-- `FB[y][x] <- lit`. -/
def FrameBuffer.setPixel (fb : FrameBuffer) (x : Col) (y : Row) (lit : Bool) : FrameBuffer :=
  if FrameBuffer.pixel fb x y = lit then fb else FrameBuffer.flip fb x y

/-- All pixels unlit (R106). -/
def FrameBuffer.cleared : FrameBuffer := Vector.replicate 32 0#64

/-- The column a sprite's column `c` lands on (R108, R109). -/
def wrapCol (x0 c : Nat) : Col := ⟨(x0 + c) % 64, Nat.mod_lt _ (by decide)⟩

/-- The row a sprite's row `r` lands on (R108, R109). -/
def wrapRow (y0 r : Nat) : Row := ⟨(y0 + r) % 32, Nat.mod_lt _ (by decide)⟩

/-- The pixels that the row byte `b` toggles on row `y`, left first; bit 7 is the leftmost (R108, R112). -/
def rowPixels (x0 : Nat) (y : Row) (b : Byte) : List (Col × Row) :=
  ((List.range 8).filter fun c => b.getLsbD (7 - c)).map fun c => (wrapCol x0 c, y)

/-- The pixels a sprite toggles, one for each sprite bit of 1, in row-major order: rows from row `r` of the sprite on
(R108). -/
def spritePixelsFrom (x0 y0 r : Nat) : List Byte → List (Col × Row)
  | [] => []
  | b :: rest => rowPixels x0 (wrapRow y0 r) b ++ spritePixelsFrom x0 y0 (r + 1) rest

/-- The pixels a sprite at origin (`x0`, `y0`) toggles, in row-major order (R108). -/
def spritePixels (x0 y0 : Nat) (sprite : List Byte) : List (Col × Row) := spritePixelsFrom x0 y0 0 sprite

/-- What a draw gives: the framebuffer after it, the change events in order, and whether a lit pixel was erased (R108). -/
structure DrawResult where
  fb        : FrameBuffer
  events    : List RenderEvent
  anyErased : Bool
  deriving DecidableEq, Repr

/-- Toggle the pixels one after the other; each gives one event, and one that was lit sets `anyErased` (R108, R111). -/
def togglePixels (fb : FrameBuffer) : List (Col × Row) → DrawResult
  | [] => { fb := fb, events := [], anyErased := false }
  | (x, y) :: rest =>
    let old := FrameBuffer.pixel fb x y
    let d := togglePixels (FrameBuffer.flip fb x y) rest
    { fb := d.fb, events := .pixel x y (!old) :: d.events, anyErased := old || d.anyErased }

/-- `XorDraw(x0, y0, s)` (R108). -/
def xorDraw (fb : FrameBuffer) (x0 y0 : Byte) (sprite : List Byte) : DrawResult :=
  togglePixels fb (spritePixels x0.toNat y0.toNat sprite)

/-- The framebuffer after the render collaborator has seen one event (R111). -/
def RenderEvent.replay (fb : FrameBuffer) : RenderEvent → FrameBuffer
  | .clear => FrameBuffer.cleared
  | .pixel x y lit => FrameBuffer.setPixel fb x y lit

/-- The framebuffer after a sequence of events (R111, R139). -/
def replayEvents (fb : FrameBuffer) (events : List RenderEvent) : FrameBuffer := events.foldl RenderEvent.replay fb

end Sys2Proof.Machine
end

