-- ==== Sys2Proof/Machine/SideEffect.lean ====
section
/-! DEFINITION. Phase 2 of an instruction: the side-effect descriptors and their dispatch (spec/00_scope.md R11,
spec/45_frame_sequencer.md R130). A descriptor lives inside one frame and is no state (spec/10_state.md R29). -/

namespace Sys2Proof.Machine

/-- The descriptors of R130. -/
inductive SideEffect where
  | clearDisplay
  | draw (x0 y0 : Byte) (a n : Nat)
  | memDump (a : Nat) (bytes : List Byte)
  | memRead (a n : Nat)
  | waitKeyPress (r : Reg)
  | checkKeyPressed (k : Byte)
  | checkKeyReleased (k : Byte)
  deriving DecidableEq, Repr

/-- Emit render events after those the frame has emitted already (R111, R139). -/
def State.emit (s : State) (events : List RenderEvent) : State :=
  { s with out := { s.out with render := s.out.render ++ events } }

/-- `ClearDisplay` (R106, R130). -/
def State.clearDisplay (s : State) : State := { s with fb := FrameBuffer.cleared }.emit [.clear]

/-- `Draw` of a sprite that has been read: the framebuffer, then `VF` from `any_erased`, then the events (R107). -/
def State.drawSprite (s : State) (x0 y0 : Byte) (sprite : List Byte) : State :=
  let d := xorDraw s.fb x0 y0 sprite
  ({ s with fb := d.fb }.setFlag d.anyErased).emit d.events

/-- A key check (R116, R117, R122): a code above 15 is fatal with `PC` not advanced; else the `PC` advance is finished,
+4 when the key's flag is `want`. -/
def State.checkKey (s : State) (k : Byte) (want : Bool) : State :=
  if h : k.toNat < 16 then s.skipIf (s.keyPressed ⟨k.toNat, h⟩ == want) else s.raise .keyIndex

/-- Carry a descriptor out (R130). A transfer out of bounds is fatal before anything of phase 2 is done (R43, R147). -/
def State.dispatch (s : State) : SideEffect → State
  | .clearDisplay => s.clearDisplay
  | .draw x0 y0 a n =>
    match s.memRead a n with
    | some sprite => s.drawSprite x0 y0 sprite
    | none => s.raise .memoryBounds
  | .memDump a bytes =>
    match s.memWrite a bytes with
    | some s' => s'
    | none => s.raise .memoryBounds
  | .memRead a n =>
    match s.memRead a n with
    | some bytes => s.loadRegs bytes
    | none => s.raise .memoryBounds
  | .waitKeyPress r => { s with ms := .waitKeyPress r }
  | .checkKeyPressed k => s.checkKey k true
  | .checkKeyReleased k => s.checkKey k false

end Sys2Proof.Machine
end

