-- ==== Sys2Proof/Machine/Alu.lean ====
section
/-! DEFINITION. Register and ALU instructions (spec/41_alu.md R81 to R96). Operands are read before anything is written,
the result register is written before `VF`, and `PC` advances by 2 (R81). -/

namespace Sys2Proof.Machine

/-- LD Vx, nn (R82). -/
def execLdImm (x : Reg) (nn : Byte) (s : State) : Result := .next (s.setReg x nn).advance

/-- ADD Vx, nn (R83): modulo 256, no flag. -/
def execAddImm (x : Reg) (nn : Byte) (s : State) : Result := .next (s.setReg x (s.reg x + nn)).advance

/-- LD Vx, Vy (R84). -/
def execLdReg (x y : Reg) (s : State) : Result := .next (s.setReg x (s.reg y)).advance

/-- OR Vx, Vy (R85): no flag. -/
def execOr (x y : Reg) (s : State) : Result := .next (s.setReg x (s.reg x ||| s.reg y)).advance

/-- AND Vx, Vy (R86): no flag. -/
def execAnd (x y : Reg) (s : State) : Result := .next (s.setReg x (s.reg x &&& s.reg y)).advance

/-- XOR Vx, Vy (R87): no flag. -/
def execXor (x y : Reg) (s : State) : Result := .next (s.setReg x (s.reg x ^^^ s.reg y)).advance

/-- ADD Vx, Vy (R88): modulo 256, `VF` the carry. -/
def execAddReg (x y : Reg) (s : State) : Result :=
  .next (s.setRegAndFlag x (s.reg x + s.reg y) (carryOut (s.reg x) (s.reg y))).advance

/-- SUB Vx, Vy (R89): `V[x] - V[y]`, `VF` the not-borrow. -/
def execSub (x y : Reg) (s : State) : Result :=
  .next (s.setRegAndFlag x (s.reg x - s.reg y) (noBorrow (s.reg x) (s.reg y))).advance

/-- SHR Vx, Vy (R90): `V[y]` shifted right by one, `VF` the bit shifted out. -/
def execShr (x y : Reg) (s : State) : Result :=
  .next (s.setRegAndFlag (shiftDest x y) (s.reg y >>> 1) (bitShiftedOutRight (s.reg y))).advance

/-- SUBN Vx, Vy (R91): `V[y] - V[x]`, `VF` the not-borrow. -/
def execSubn (x y : Reg) (s : State) : Result :=
  .next (s.setRegAndFlag x (s.reg y - s.reg x) (noBorrow (s.reg y) (s.reg x))).advance

/-- SHL Vx, Vy (R92): `V[y]` shifted left by one, `VF` the bit shifted out. -/
def execShl (x y : Reg) (s : State) : Result :=
  .next (s.setRegAndFlag (shiftDest x y) (s.reg y <<< 1) (bitShiftedOutLeft (s.reg y))).advance

/-- RND Vx, nn (R93, R96): the frame's random byte ANDed with the immediate; no flag. -/
def execRnd (x : Reg) (nn : Byte) (s : State) : Result := .next (s.setReg x (s.randomByte &&& nn)).advance

end Sys2Proof.Machine
end

