-- ==== Sys2Proof/Machine/Control.lean ====
section
/-! DEFINITION. Control transfer (spec/40_control.md R69 to R78). All of these execute in phase 1 alone; none touches
memory, the framebuffer, the keypad, the timers, `I` or a general register (R69). -/

namespace Sys2Proof.Machine

/-- NOP (R70): the payload is ignored. -/
def execNop (_nnn : Addr12) (s : State) : Result := .next s.advance

/-- RET (R71): pop an entry and continue `RET_ADVANCE` past it; fatal on an empty stack with nothing changed. -/
def execRet (s : State) : Result :=
  match s.stack with
  | [] => .next (s.raise .stackUnderflow)
  | w :: rest => .next ({ s with stack := rest }.setPc (w + retAdvance))

/-- JP (R72): the target as given. -/
def execJp (nnn : Addr12) (s : State) : Result := .next (s.setPc (zextAddr nnn))

/-- JP V0 (R73). -/
def execJpV0 (nnn : Addr12) (s : State) : Result := .next (s.setPc (s.indexedTarget nnn))

/-- CALL (R74): push the address of this CALL; fatal on a full stack with nothing changed. -/
def execCall (nnn : Addr12) (s : State) : Result :=
  if s.sp < Config.stackCap then .next ((s.push s.pc).setPc (zextAddr nnn))
  else .next (s.raise .stackOverflow)

/-- SE Vx, nn (R75). -/
def execSeImm (x : Reg) (nn : Byte) (s : State) : Result := .next (s.skipIf (s.reg x == nn))

/-- SNE Vx, nn (R76). -/
def execSneImm (x : Reg) (nn : Byte) (s : State) : Result := .next (s.skipIf (s.reg x != nn))

/-- SE Vx, Vy (R77). -/
def execSeReg (x y : Reg) (s : State) : Result := .next (s.skipIf (s.reg x == s.reg y))

/-- SNE Vx, Vy (R78). -/
def execSneReg (x y : Reg) (s : State) : Result := .next (s.skipIf (s.reg x != s.reg y))

end Sys2Proof.Machine
end

