-- ==== Sys2Proof/Machine/Display.lean ====
section
/-! DEFINITION. Display instructions (spec/43_display.md R106, R107). -/

namespace Sys2Proof.Machine

/-- CLS (R106). -/
def execCls (s : State) : Result := .next (s.advance.dispatch .clearDisplay)

/-- DRW Vx, Vy, n (R107): the operands of phase 1, then the draw; `I` and memory are not changed. -/
def execDrw (x y : Reg) (n : Nibble) (s : State) : Result :=
  .next (s.advance.dispatch (.draw (s.reg x) (s.reg y) s.dataAddr n.toNat))

end Sys2Proof.Machine
end

