-- ==== Sys2Proof/Machine/IndexMemory.lean ====
section
/-! DEFINITION. Address-register and memory instructions (spec/42_index_memory.md R97 to R103). The transfer is phase 2
and uses the address and values of phase 1; `PC`, and `I` for the bulk transfers, are advanced before it, and stay so if
it is fatal (R97). -/

namespace Sys2Proof.Machine

/-- LD I, nnn (R98). -/
def execLdI (nnn : Addr12) (s : State) : Result := .next (s.setI (zextAddr nnn)).advance

/-- ADD I, Vx (R99): modulo 65536, no flag. -/
def execAddI (x : Reg) (s : State) : Result := .next (s.setI (s.i + zextByte (s.reg x))).advance

/-- LD F, Vx (R100). -/
def execLdF (x : Reg) (s : State) : Result := .next (s.setI (glyphAddr (s.reg x))).advance

/-- LD B, Vx (R101): three decimal digits at `I`, hundreds first; `I` is not changed. -/
def execLdB (x : Reg) (s : State) : Result :=
  .next (s.advance.dispatch (.memDump s.dataAddr (bcdDigits (s.reg x))))

/-- LD [I], Vx (R102): `V[0]` to `V[x]` at the old `I`. -/
def execLdMemVx (x : Reg) (s : State) : Result :=
  .next ((s.setI (s.iAfterBulk x)).advance.dispatch (.memDump s.dataAddr (s.regsUpTo x)))

/-- LD Vx, [I] (R103): `V[0]` to `V[x]` from the old `I`. -/
def execLdVxMem (x : Reg) (s : State) : Result :=
  .next ((s.setI (s.iAfterBulk x)).advance.dispatch (.memRead s.dataAddr (bulkCount x)))

end Sys2Proof.Machine
end

