-- ==== Sys2Proof/Machine/KeypadTimer.lean ====
section
/-! DEFINITION. Keypad and timer instructions (spec/44_keypad_timer_ops.md R115 to R122). -/

namespace Sys2Proof.Machine

/-- SKP Vx (R116): the `PC` advance is made in phase 2. -/
def execSkp (x : Reg) (s : State) : Result := .next (s.dispatch (.checkKeyPressed (s.reg x)))

/-- SKNP Vx (R117). -/
def execSknp (x : Reg) (s : State) : Result := .next (s.dispatch (.checkKeyReleased (s.reg x)))

/-- LD Vx, K (R118), the frame that executes it; the wake is `wake` (Machine/Sequencer.lean). -/
def execLdVxK (x : Reg) (s : State) : Result := .next (s.advance.dispatch (.waitKeyPress x))

/-- LD Vx, DT (R119). -/
def execLdVxDt (x : Reg) (s : State) : Result := .next (s.setReg x s.dt).advance

/-- LD DT, Vx (R120). -/
def execLdDtVx (x : Reg) (s : State) : Result := .next { s with dt := s.reg x }.advance

/-- LD ST, Vx (R121). -/
def execLdStVx (x : Reg) (s : State) : Result := .next { s with st := s.reg x }.advance

end Sys2Proof.Machine
end

