-- ==== Sys2Proof/Machine/Sequencer.lean ====
section
/-! DEFINITION. The frame sequencer: the five steps of a frame in their order (spec/45_frame_sequencer.md R126 to R133),
the gates and the 60 Hz step (spec/60_exceptions.md R155 to R158), and the fetch (spec/20_memory.md R41, R42). -/

namespace Sys2Proof.Machine

/-! ### Time and gates -/

/-- The clock's reading in a frame (R124). With the tick Booleans as inputs the frame reads no clock (R6). -/
def TimeInput.now (lastReading : Nat) : TimeInput → Nat
  | .elapsed d => lastReading + d
  | .ticks _ _ => lastReading

/-- `G.tick(now)` of R155 for a gate with interval `interval` and baseline `last`: the result and the new baseline. The
test `now - last >= interval` is written without subtraction. -/
def gateTick (interval last now : Nat) : Bool × Nat :=
  if last + interval ≤ now then (true, now) else (false, last)

/-- Poll `GATE_CPU` (R133, R156). -/
def pollCpuGate (t : TimeInput) (s : State) : Bool × State :=
  match t with
  | .elapsed _ =>
    let r := gateTick Config.cpuInterval s.gateCpu s.clock
    (r.1, { s with gateCpu := r.2 })
  | .ticks cpu _ => (cpu, s)

/-- Poll `GATE_60` (R133, R156). -/
def pollSixtyGate (t : TimeInput) (s : State) : Bool × State :=
  match t with
  | .elapsed _ =>
    let r := gateTick Config.t60Interval s.gate60 s.clock
    (r.1, { s with gate60 := r.2 })
  | .ticks _ t60 => (t60, s)

/-! ### Steps 1 and 2: input and wake -/

/-- The start of a frame that is not ended by `Exit`: nothing emitted yet (R125), the clock read (R124). -/
def startFrame (inp : FrameInput) (s : State) : State :=
  { s with out := FrameOutput.empty, clock := TimeInput.now s.clock inp.time }

/-- Step 1 for a key press: its flag is set in every machine state (R127). -/
def latchKey (ev : InputEvent) (s : State) : State :=
  match ev with
  | .key k => { s with key := s.key.set k.val true }
  | .none => s
  | .exit => s

/-- `zext_8(k)` (R118). -/
def keyByte (k : KeyCode) : Byte := BitVec.ofNat 8 k.val

/-- Step 2 (R118, R128): a waiting machine that sees a key press stores its code and returns to `Normal`. -/
def wake (ev : InputEvent) (s : State) : State :=
  match s.ms, ev with
  | .waitKeyPress r, .key k => { s.setReg r (keyByte k) with ms := .normal }
  | .waitKeyPress _, .none => s
  | .waitKeyPress _, .exit => s
  | .normal, _ => s

/-! ### Step 3: one instruction -/

/-- The word at `PC`, high byte first; `none` when the second byte would lie beyond the address space (R39, R41, R42). -/
def State.fetch (s : State) : Option Word :=
  if s.pc.toNat + 1 < Config.memSize then
    some (wordOfBytes (Memory.read s.mem s.pc.toNat) (Memory.read s.mem (s.pc.toNat + 1)))
  else none

/-- Fetch, decode and execute one instruction; the fetch bound is tested before the decode (R126, R129, R153). -/
def executeOne (s : State) : Result :=
  match s.fetch with
  | none => .next (s.raiseDecode .fetchOutOfRange)
  | some w =>
    match decodeWord w with
    | none => .next (s.raiseDecode (.unknownOpcode w))
    | some i => exec i s

/-- Step 3: an instruction executes when the CPU gate ticks and the machine is in `Normal` (R129). -/
def stepThree (cpuTick : Bool) (s : State) : Result :=
  match cpuTick, s.ms with
  | true, .normal => executeOne s
  | true, .waitKeyPress _ => .next s
  | false, _ => .next s

/-! ### Steps 4 and 5: 60 Hz, end of the key pulse -/

/-- A timer at zero stays at zero (R157; the universal behaviour, decision D18, UNVERIFIED, log 19). -/
def countDown (t : Byte) : Byte := if t = 0#8 then 0#8 else t - 1#8

/-- `TimerStep()` (R157): beep when `ST` is nonzero going in, then both timers count down. -/
def timerStep (s : State) : State :=
  { s with dt := countDown s.dt, st := countDown s.st, out := { s.out with beep := decide (s.st ≠ 0#8) } }

/-- Step 4, whatever the machine state (R131). -/
def stepFour (t : TimeInput) (s : State) : State :=
  let r := pollSixtyGate t s
  if r.1 then timerStep r.2 else r.2

/-- Step 5: all key flags are cleared (R132). The frame's inputs are used up. -/
def stepFive (s : State) : State :=
  { s with key := noKeys, inputs := s.inputs.tail, frame := s.frame + 1 }

/-- What follows step 3: a fatal has ended the frame at once, else steps 4 and 5 (R126, R141). -/
def finishFrame (t : TimeInput) (s : State) : State :=
  match s.run with
  | .running => stepFive (stepFour t s)
  | .stopped => s
  | .faulted _ => s

/-! ### The frame -/

/-- Apply a state change to a next state; a fault or refusal stays. -/
def onNext (f : State → State) : Result → Result
  | .next s => .next (f s)
  | .fault r => .fault r
  | .refused r => .refused r

/-- Steps 1 and 2 and the poll of the CPU gate: the gate's result and the state in which step 3 begins (R126). -/
def beginFrame (inp : FrameInput) (s : State) : Bool × State :=
  pollCpuGate inp.time (wake inp.ev (latchKey inp.ev (startFrame inp s)))

/-- A frame of a running machine whose event is not `Exit` (R126). -/
def runFrame (inp : FrameInput) (s : State) : Result :=
  let r := beginFrame inp s
  onNext (finishFrame inp.time) (stepThree r.1 r.2)

/-- A frame that does nothing: it emits nothing (R125, R126). -/
def idleFrame (s : State) : State := { s with out := FrameOutput.empty }

/-- A frame whose event is `Exit`: `RUN <- Stopped` and nothing else (R127, R149). -/
def exitFrame (s : State) : State := { idleFrame s with run := .stopped }

/-- `Frame(ev, now, rnd)` (R126): a machine that is stopped or faulted does nothing; `Exit` comes before everything. -/
def frameStep (s : State) : Result :=
  match s.run with
  | .stopped => .next (idleFrame s)
  | .faulted _ => .next (idleFrame s)
  | .running =>
    match s.frameInput.ev with
    | .exit => .next (exitFrame s)
    | .none => runFrame s.frameInput s
    | .key _ => runFrame s.frameInput s

/-! ### Placing an instruction -/

/-- The inputs of a frame that executes an instruction and does nothing else: no event, a CPU tick, no 60 Hz tick; the
random byte is the one the frame has anyway. -/
def cpuTickInput (s : State) : FrameInput := { ev := .none, time := .ticks true false, rnd := s.frameInput.rnd }

/-- Where an instruction can be placed so that the next fetch finds it: at `PC` when it can be fetched from, else at the
load address. -/
def placeAt (s : State) : Nat := if s.pc.toNat + 1 < Config.memSize then s.pc.toNat else Config.loadBase

/-- `s` with the word `w` where the next frame fetches, running, not waiting, and the next frame's inputs such that it
executes it (log 17). -/
def placeWord (w : Word) (s : State) : State :=
  { s with
    pc     := BitVec.ofNat 16 (placeAt s)
    mem    := Memory.writeBytes s.mem (placeAt s) [highByte w, lowByte w]
    ms     := .normal
    run    := .running
    inputs := cpuTickInput s :: s.inputs.tail }

end Sys2Proof.Machine
end

