-- ==== Sys2Proof/Machine/Step.lean ====
section
/-! DEFINITION. The step of the machine: one frame (spec/00_scope.md R10, spec/45_frame_sequencer.md R126). -/

namespace Sys2Proof.Machine

/-- One frame. -/
def step : State → Host.Outcome State Fault Refusal := frameStep

/-- `s` with the instruction of an opcode-table row placed where the next step fetches it, so that the next step executes
it: the program is loaded from outside the machine, by reset (R167; `State.boot`), and this stands for that load
(log 17). -/
def State.withFetchWord (s : State) (nbits w : Nat) : State := placeWord (tableWord nbits w) s

end Sys2Proof.Machine
end

