-- ==== Sys2Proof/Machine/Load.lean ====
section
/-! DEFINITION. Reset with a program image (spec/70_reset_and_hazards.md R166 to R170). -/

namespace Sys2Proof.Machine

/-- `Load(ROM)` (R167): `FONT`, then the image from 0x200, cut silently to `ROM_MAX` bytes (R169); the last byte of an odd
image is stored like any other (R170). -/
def loadImage (rom : List Byte) : Memory := Memory.writeBytes [] Config.loadBase (rom.take Config.romMax)

/-- The machine right after reset with the image `rom` (R166). An image that cannot be read never gets here (R168). -/
def State.boot (rom : List Byte) : State := { State.reset with mem := loadImage rom }

end Sys2Proof.Machine
end

