-- ==== Sys2Proof/Safety.lean ====
section
/-! DEFINITION. What counts as a safe run, and the invariant of the machine, in the terms claims use. A fatal is a NEXT
state with `RUN` = `Faulted(cause)` (spec/60_exceptions.md R141), so a claim of success reads `RUN`: "a faulted state is
never final and never successful". -/

namespace Sys2Proof.Machine

/-- The machine has not been stopped by a fatal (R141). -/
def State.unfaulted (s : State) : Bool :=
  match s.run with
  | .running => true
  | .stopped => true
  | .faulted _ => false

/-- No frame of the next `k` faults, refuses, or leaves the machine faulted. -/
def safeFor : Nat → State → Bool
  | 0, s => s.unfaulted
  | k + 1, s =>
    s.unfaulted &&
    match step s with
    | .next t => safeFor k t
    | .fault _ => false
    | .refused _ => false

/-- Between frames every key flag is false (R25, R132); after a fatal, which ends its frame before step 5, at most the flag
of that frame's event is true (R25, R141; log 13). -/
def State.keysQuiet (s : State) : Bool :=
  match s.run with
  | .running => decide (s.key = noKeys)
  | .stopped => decide (s.key = noKeys)
  | .faulted _ => decide (s.key.toList.count true ≤ 1)

/-- A call stack of at most 16 entries, each the address of a CALL that was fetched (R20, R42, R74). -/
def State.stackOk (s : State) : Bool :=
  decide (s.stack.length ≤ Config.stackCap) && s.stack.all fun w => decide (w.toNat < 0x0FFF)

/-- The 16-bit `PC` never overflows: the largest value any instruction leaves is 0xFFF + 0xFF (R19). -/
def State.pcOk (s : State) : Bool := decide (s.pc.toNat ≤ 0x10FE)

/-- No gate's baseline is ahead of the clock (R124, R155). -/
def State.gatesOk (s : State) : Bool := decide (s.gateCpu ≤ s.clock) && decide (s.gate60 ≤ s.clock)

/-- The invariant of the machine: what holds at reset and what every frame keeps. -/
def State.inv (s : State) : Bool :=
  Memory.wf s.mem && s.stackOk && s.pcOk && s.keysQuiet && s.gatesOk

end Sys2Proof.Machine
end

