-- ==== Sys2Proof/Certificates/Slice0/Obligations.lean ====
section
/-! DEFINITION. The statements for the provers. Each is a `def Obligations.<Name> : Prop`; OBLIGATIONS.json lists them with
the rules of spec/ they come from. The definitions under `Sys2Proof.Claim` are the words the statements use: words of
the spec's patterns written from their nibbles, what R108's pseudocode computes, loop for loop, and what a frame does
before and after its step 3, field by field. -/

namespace Sys2Proof.Claim

open Sys2Proof.Machine

/-- The word with top nibble `op` and 12-bit payload `nnn` (30 R54, format `NNN`). -/
def wordNNN (op : Nat) (nnn : Addr12) : Word := BitVec.ofNat 16 (op * 4096 + nnn.toNat)

/-- The word with nibbles `op`, `x` and low byte `nn` (30 R54, formats `XNN` and `X`). -/
def wordXNN (op : Nat) (x : Reg) (nn : Nat) : Word := BitVec.ofNat 16 (op * 4096 + x.val * 256 + nn)

/-- The word with nibbles `op`, `x`, `y`, `n` (30 R54, formats `XY` and `XYN`). -/
def wordXYN (op : Nat) (x y : Reg) (n : Nat) : Word := BitVec.ofNat 16 (op * 4096 + x.val * 256 + y.val * 16 + n)

/-- The word the frame fetches: the bytes at `PC` and `PC + 1`, high byte first (20 R39, R41). -/
def fetchedWord (s : State) : Word := wordOfBytes (Memory.read s.mem s.pc.toNat) (Memory.read s.mem (s.pc.toNat + 1))

/-- A running machine in `Normal` that can fetch, in a frame with the event `ev`, a CPU tick, and the 60 Hz tick `t60`. -/
def Ready (s : State) (ev : InputEvent) (t60 : Bool) : Prop :=
  s.run = .running ∧ s.ms = .normal ∧ s.pc.toNat < 0x0FFF ∧
    s.frameInput.ev = ev ∧ s.frameInput.time = .ticks true t60

/-- The state a frame leaves that changes nothing but its own bookkeeping: no output, no key flag, its inputs used up. -/
def afterQuietFrame (s : State) : State :=
  { s with out := FrameOutput.empty, key := noKeys, inputs := s.inputs.tail, frame := s.frame + 1 }

/-- Pixel (`px`, `py`) lies under a bit of 1 of the sprite of `n` bytes at `a`, drawn at (`x0`, `y0`) with the wrap of 43
R109. -/
def UnderSpriteBit (m : Memory) (x0 y0 a n : Nat) (px : Col) (py : Row) : Prop :=
  ∃ r c, r < n ∧ c < 8 ∧ (Memory.read m (a + r)).getLsbD (7 - c) = true ∧
    px.val = (x0 + c) % 64 ∧ py.val = (y0 + r) % 32

/-- Framebuffer, events and `any_erased` in the pseudocode of 43 R108. -/
abbrev Canvas := (Col → Row → Bool) × List RenderEvent × Bool

/-- The loop body of R108 for row `r`, column `c`. -/
def xorBit (b : Byte) (x0 y0 r : Nat) (d : Canvas) (c : Nat) : Canvas :=
  if b.getLsbD (7 - c) = true then
    let x : Col := ⟨(x0 + c) % 64, Nat.mod_lt _ (by decide)⟩
    let y : Row := ⟨(y0 + r) % 32, Nat.mod_lt _ (by decide)⟩
    let old := d.1 x y
    (fun x' y' => if x' = x ∧ y' = y then old ^^ true else d.1 x' y', d.2.1 ++ [.pixel x y (old == false)],
      if old = true then true else d.2.2)
  else d

/-- `XorDraw(x0, y0, s)` of R108, loop for loop. -/
def xorDrawLoops (fb : Col → Row → Bool) (x0 y0 : Nat) (sprite : List Byte) : Canvas :=
  (List.range sprite.length).foldl
    (fun d r => (List.range 8).foldl (xorBit (sprite.getD r 0#8) x0 y0 r) d) (fb, [], false)

/-- The times of the true results of a gate polled at the times listed (60 R155). -/
def trueTimes (interval last : Nat) : List Nat → List Nat
  | [] => []
  | now :: rest =>
    let r := gateTick interval last now
    if r.1 = true then now :: trueTimes interval r.2 rest else trueTimes interval r.2 rest

/-- The general registers an instruction may write: its destination, and `VF` where it writes the flag (10 R14, 41 R81,
42 R103, 43 R107). -/
def writesReg : Instr → Reg → Prop
  | .nop _, _ => False
  | .cls, _ => False
  | .ret, _ => False
  | .jp _, _ => False
  | .call _, _ => False
  | .seImm _ _, _ => False
  | .sneImm _ _, _ => False
  | .seReg _ _, _ => False
  | .ldImm x _, r => r = x
  | .addImm x _, r => r = x
  | .ldReg x _, r => r = x
  | .or x _, r => r = x
  | .and x _, r => r = x
  | .xor x _, r => r = x
  | .addReg x _, r => r = x ∨ r = 15
  | .sub x _, r => r = x ∨ r = 15
  | .shr x _, r => r = x ∨ r = 15
  | .subn x _, r => r = x ∨ r = 15
  | .shl x _, r => r = x ∨ r = 15
  | .sneReg _ _, _ => False
  | .ldI _, _ => False
  | .jpV0 _, _ => False
  | .rnd x _, r => r = x
  | .drw _ _ _, r => r = 15
  | .skp _, _ => False
  | .sknp _, _ => False
  | .ldVxDt x, r => r = x
  | .ldVxK _, _ => False
  | .ldDtVx _, _ => False
  | .ldStVx _, _ => False
  | .addI _, _ => False
  | .ldF _, _ => False
  | .ldB _, _ => False
  | .ldMemVx _, _ => False
  | .ldVxMem x, r => r.val ≤ x.val

/-- The instruction stores to address `a` (42 R101, R102): three bytes at `I`, or `x + 1` bytes at `I`. -/
def storesTo (i : Instr) (s : State) (a : Nat) : Prop :=
  (∃ x, i = .ldB x ∧ s.i.toNat ≤ a ∧ a < s.i.toNat + 3) ∨
  (∃ x : Reg, i = .ldMemVx x ∧ s.i.toNat ≤ a ∧ a < s.i.toNat + x.val + 1)

/-- What a timer holds after one 60 Hz step (60 R157). -/
def countedDown (t : Byte) : Byte := BitVec.ofNat 8 (t.toNat - 1)

/-- The time of the frame: the last reading and what has elapsed since; with the tick Booleans no clock is read (00 R6,
45 R124). -/
def frameTime (s : State) : Nat :=
  match s.frameInput.time with
  | .elapsed d => s.clock + d
  | .ticks _ _ => s.clock

/-- The CPU gate ticks in the frame: its interval has passed since its baseline (60 R155), or the input says so (00 R6). -/
def cpuTicks (s : State) : Bool :=
  match s.frameInput.time with
  | .elapsed d => decide (((s.clock + d : Nat) : Int) - (s.gateCpu : Int) ≥ (Config.cpuInterval : Int))
  | .ticks cpu _ => cpu

/-- The 60 Hz gate ticks in the frame, if the frame polls it (60 R155, 00 R6). -/
def sixtyTicks (s : State) : Bool :=
  match s.frameInput.time with
  | .elapsed d => decide (((s.clock + d : Nat) : Int) - (s.gate60 : Int) ≥ (Config.t60Interval : Int))
  | .ticks _ t60 => t60

/-- A gate's baseline after a poll in the frame: the time of a tick, else what it was (60 R155). The tick Booleans move
no baseline (log 2). -/
def baselineAfter (s : State) (ticks : Bool) (last : Nat) : Nat :=
  match s.frameInput.time with
  | .elapsed _ => if ticks = true then frameTime s else last
  | .ticks _ _ => last

/-- The state of a frame that has emptied its outputs, read its clock and polled its CPU gate, and done no more. -/
def timeRead (s : State) : State :=
  { s with out := FrameOutput.empty, clock := frameTime s, gateCpu := baselineAfter s (cpuTicks s) s.gateCpu }

/-- The state in which step 3 of a frame begins: `timeRead` with step 1 (a key press sets its flag, 45 R127) and step 2 (it
wakes a waiting machine, 45 R128). -/
def inputTaken (s : State) : State :=
  match s.frameInput.ev, s.ms with
  | .key k, .normal => { timeRead s with key := s.key.set k.val true }
  | .key k, .waitKeyPress r =>
    { timeRead s with key := s.key.set k.val true, v := s.v.set r.val (BitVec.ofNat 8 k.val), ms := .normal }
  | .none, _ => timeRead s
  | .exit, _ => timeRead s

/-- Steps 4 and 5 of the frame of `s` on the state `u` that its step 3 leaves running: if the 60 Hz gate ticks, both
timers count down and the beep says that `ST` was nonzero (45 R131, 60 R157, R158); the key flags are cleared (45 R132);
the inputs are used up (log 1). -/
def frameEnd (s u : State) : State :=
  { u with
    gate60 := baselineAfter s (sixtyTicks s) s.gate60
    dt     := if sixtyTicks s = true then countedDown u.dt else u.dt
    st     := if sixtyTicks s = true then countedDown u.st else u.st
    out    := { u.out with beep := sixtyTicks s && decide (u.st ≠ 0#8) }
    key    := noKeys
    inputs := u.inputs.tail
    frame  := u.frame + 1 }

/-- The frame of `s` executes RND: it is a running machine's frame without `Exit` whose step 3 executes an instruction
(45 R129), and the word it fetches decodes to RND. -/
def ExecutesRnd (s : State) : Prop :=
  s.run = .running ∧ s.frameInput.ev ≠ .exit ∧ cpuTicks s = true ∧ (inputTaken s).ms = .normal ∧
    s.pc.toNat < 0x0FFF ∧ ∃ x nn, decodeWord (fetchedWord s) = some (.rnd x nn)

end Sys2Proof.Claim

open Sys2Proof Sys2Proof.Machine Sys2Proof.Claim

/-- For every image and every address below 4096: the byte is FONT[a] below 80, byte a - 0x200 of the image from
0x200 for as many bytes as the image has and 3584 allow, and zero everywhere else; FONT has 80 bytes. The bytes of
FONT beyond glyph 0 are not asserted (log 6). (R36; R167.) -/
def Obligations.BootLoadsFontThenImage : Prop :=
  font.length = 80 ∧ ∀ (rom : List Byte) (a : Nat), a < 4096 →
    Memory.read (State.boot rom).mem a =
      if a < 80 then font.getD a 0#8
      else if 0x200 ≤ a ∧ a - 0x200 < min rom.length 3584 then rom.getD (a - 0x200) 0#8
      else 0#8

/-- For every image, after reset: PC is 0x200; every register, I, DT and ST are zero; the call stack is empty; every
pixel is unlit; every key flag is false; MS is Normal; RUN is Running; both gate baselines equal the clock; nothing
has been emitted. State.reset is this for the empty image. The values but PC rest on the spec's decision D15 (log
5); time 0 is the model's choice (log 18). (10_state.md section 7 (reset values, decision D15);
70_reset_and_hazards.md section 1.) -/
def Obligations.ResetRegistersAndScreen : Prop :=
  (∀ rom : List Byte,
    let s := State.boot rom
    s.pc = 0x0200#16 ∧ (∀ r : Reg, s.reg r = 0#8) ∧ s.i = 0#16 ∧ s.dt = 0#8 ∧ s.st = 0#8 ∧ s.stack = [] ∧
    (∀ x y, FrameBuffer.pixel s.fb x y = false) ∧ (∀ k, s.keyPressed k = false) ∧ s.ms = .normal ∧
    s.run = .running ∧ s.gateCpu = s.clock ∧ s.gate60 = s.clock ∧ s.out = FrameOutput.empty) ∧
  State.reset = State.boot []

/-- For every image, State.boot rom satisfies the invariant State.inv (memory canonical, stack at most 16 fetched
CALL addresses, PC at most 0x10FE, key flags quiet, gate baselines not ahead of the clock), and so does State.reset.
(10_state.md section 7; 20_memory.md section 1.) -/
def Obligations.InvariantHoldsAtReset : Prop :=
  State.reset.inv = true ∧ ∀ rom : List Byte, (State.boot rom).inv = true

/-- For every state that satisfies State.inv, if step answers a next state, that state satisfies State.inv: memory
stays canonical, the stack holds at most 16 addresses of fetched CALLs, PC never exceeds 0x10FE (the 16-bit register
never overflows), key flags are false between frames (at most one true after a fatal), and no gate baseline runs
ahead of the clock. (10_state.md section 2 (program counter range, call stack); 10_state.md section 4 (keypad
latch); 20_memory.md section 4; 45_frame_sequencer.md section 2; 60_exceptions.md sections 1 and 3.) -/
def Obligations.FrameKeepsInvariant : Prop :=
  ∀ s t : State, s.inv = true → step s = .next t → t.inv = true

/-- For every well-formed instruction, with every operand at every value: decoding its word gives it back, and
decoding its two bytes, high byte first, followed by any bytes, gives it and those bytes. The opcode table is the
spec's decision D1, the ignored nibble D2 (log 19, log 10). (30_encoding.md sections 1, 2 and 3; 20_memory.md
section 2.) -/
def Obligations.DecodeAfterEncodeIsIdentity : Prop :=
  ∀ i : Instr, i.wf = true →
    decodeWord (encode i) = some i ∧ ∀ rest : List Byte, decode (encodeBytes i ++ rest) = .ok (i, rest)

/-- For every word that decodes: the instruction is well-formed, and its encoding is the word itself, or, for top
nibbles 5 and 9 only, the word with its ignored low nibble set to 0. The opcode table is the spec's decision D1, the
ignored nibble D2 (log 19, log 10). (30_encoding.md sections 2, 3 and 4.) -/
def Obligations.EncodeAfterDecodeIsCanonical : Prop :=
  ∀ (w : Word) (i : Instr), decodeWord w = some i →
    i.wf = true ∧ ((encode i).toNat = w.toNat ∨
      ((w.toNat / 4096 = 5 ∨ w.toNat / 4096 = 9) ∧ (encode i).toNat = w.toNat / 16 * 16))

/-- A word is unknown exactly when its top nibble is 8 and its low nibble is 8 to D or F, or its top nibble is E and
its low byte is neither 9E nor A1, or its top nibble is F and its low byte is none of 07, 0A, 15, 18, 1E, 29, 33,
55, 65. The encodings are the spec's decision D1 (log 19). (30_encoding.md section 4 (unknown encodings);
30_encoding.md section 2.) -/
def Obligations.UnknownWordsAreExactlyThese : Prop :=
  ∀ w : Word, decodeWord w = none ↔
    (w.toNat / 4096 = 0x8 ∧ w.toNat % 16 ∈ [0x8, 0x9, 0xA, 0xB, 0xC, 0xD, 0xF]) ∨
    (w.toNat / 4096 = 0xE ∧ w.toNat % 256 ∉ [0x9E, 0xA1]) ∨
    (w.toNat / 4096 = 0xF ∧ w.toNat % 256 ∉ [0x07, 0x0A, 0x15, 0x18, 0x1E, 0x29, 0x33, 0x55, 0x65])

/-- The words 0x00E0, 0x00EE, 0x600A, 0xA200, 0xD005, 0x0123, 0x1ABC, 0x512F, 0x9AB7, 0x8126, 0x812E, 0xE19E, 0xE1A1
and 0xFF65 decode to the instructions the spec gives, and 0x8128, 0xE000, 0xF175 are unknown. The opcode table is
the spec's decision D1, the ignored nibble D2 (log 19, log 10). (95_test_vectors.md S2 and V1; 30_encoding.md
section 3.) -/
def Obligations.DecoderReadsTheSpecsWords : Prop :=
  decodeWord 0x00E0#16 = some .cls ∧ decodeWord 0x00EE#16 = some .ret ∧
  decodeWord 0x600A#16 = some (.ldImm 0 0x0A#8) ∧ decodeWord 0xA200#16 = some (.ldI 0x200#12) ∧
  decodeWord 0xD005#16 = some (.drw 0 0 5#4) ∧ decodeWord 0x0123#16 = some (.nop 0x123#12) ∧
  decodeWord 0x1ABC#16 = some (.jp 0xABC#12) ∧ decodeWord 0x512F#16 = some (.seReg 1 2) ∧
  decodeWord 0x9AB7#16 = some (.sneReg 10 11) ∧ decodeWord 0x8126#16 = some (.shr 1 2) ∧
  decodeWord 0x812E#16 = some (.shl 1 2) ∧ decodeWord 0xE19E#16 = some (.skp 1) ∧
  decodeWord 0xE1A1#16 = some (.sknp 1) ∧ decodeWord 0xFF65#16 = some (.ldVxMem 15) ∧
  decodeWord 0x8128#16 = none ∧ decodeWord 0xE000#16 = none ∧ decodeWord 0xF175#16 = none

/-- For a running machine in a frame whose event is not Exit: if the CPU gate ticks and, after steps 1 and 2, MS is
Normal, PC is below 0xFFF and the two bytes at PC decode to i, then step is exec of i in that state, followed by
steps 4 and 5 (which a fatal suppresses). In a frame with no event and the tick Booleans given, this is written out:
exec of i in the state with no output yet; then, unless a fatal ended the frame, the 60 Hz step if it ticks, the key
flags cleared, and the inputs used up. That the CPU gate covers step 3 only, that step 3 follows the wake and the
key latch in one frame, and that a timer at zero stays at zero are the spec's decisions D16, D17, D36 and D18 (log
19). (45_frame_sequencer.md section 2 (decisions D16, D17 and D36); 20_memory.md section 3; 60_exceptions.md section
3 (the 60 Hz step; decision D18).) -/
def Obligations.StepRunsTheDecodedInstruction : Prop :=
  (∀ (s : State) (i : Instr), s.run = .running → s.frameInput.ev ≠ .exit →
    (beginFrame s.frameInput s).1 = true → (beginFrame s.frameInput s).2.ms = .normal →
    (beginFrame s.frameInput s).2.pc.toNat < 0x0FFF →
    decode [Memory.read (beginFrame s.frameInput s).2.mem (beginFrame s.frameInput s).2.pc.toNat,
      Memory.read (beginFrame s.frameInput s).2.mem ((beginFrame s.frameInput s).2.pc.toNat + 1)] = .ok (i, []) →
    step s = onNext (finishFrame s.frameInput.time) (exec i (beginFrame s.frameInput s).2)) ∧
  (∀ (s t : State) (i : Instr) (t60 : Bool), Ready s .none t60 → decodeWord (fetchedWord s) = some i →
    exec i { s with out := FrameOutput.empty } = .next t →
    step s = .next (
      if t.run = .running then
        let u := if t60 = true then
            { t with dt := countedDown t.dt, st := countedDown t.st,
                     out := { t.out with beep := decide (t.st ≠ 0#8) } }
          else t
        { u with key := noKeys, inputs := t.inputs.tail, frame := t.frame + 1 }
      else t))

/-- For every state with canonical memory and every 16-bit table word that decodes to i, the step from the state
with that word placed is exec of i there, followed by steps 4 and 5 with no 60 Hz tick. The convention is the
model's (log 17). (20_memory.md sections 2 and 3; 70_reset_and_hazards.md section 1.) -/
def Obligations.PlacedWordIsTheNextInstruction : Prop :=
  ∀ (s : State) (w : Nat) (i : Instr), Memory.wf s.mem = true → decodeTableWord 16 w = some i →
    step (s.withFetchWord 16 w) =
      onNext (finishFrame (.ticks true false)) (exec i { s.withFetchWord 16 w with out := FrameOutput.empty })

/-- For every instruction and state, exec answers a next state, and for every state, step answers a next state. That
a fatal is a next state with RUN = Faulted is the model's reading of the spec's effect of a fatal (log 4).
(45_frame_sequencer.md section 2; 60_exceptions.md section 1.) -/
def Obligations.EveryFrameAnswersANextState : Prop :=
  (∀ (i : Instr) (s : State), ∃ t, exec i s = .next t) ∧ (∀ s : State, ∃ t, step s = .next t)

/-- For every payload other than 0x0E0 and 0x0EE, the word 0nnn decodes to NOP, and executing it changes nothing but
PC, which advances by 2. (R70.) -/
def Obligations.NopOnlyAdvancesPc : Prop :=
  ∀ nnn : Addr12, nnn ≠ 0x0E0#12 → nnn ≠ 0x0EE#12 →
    decodeWord (wordNNN 0x0 nnn) = some (.nop nnn) ∧
    ∀ s : State, exec (.nop nnn) s = .next { s with pc := s.pc + 2#16 }

/-- 0x00EE decodes to RET. With entry w on top, RET removes it and sets PC to w + 2, changing nothing else; on an
empty stack RUN becomes Faulted(StackUnderflow) and nothing else changes. The encoding is the spec's decision D1
(log 19). (40_control.md (RET; decision D10, conflict C3); 60_exceptions.md section 1.) -/
def Obligations.RetResumesAfterTheCall : Prop :=
  decodeWord 0x00EE#16 = some .ret ∧
  (∀ (s : State) (w : Word) (rest : List Word), s.stack = w :: rest →
    exec .ret s = .next { s with stack := rest, pc := w + 2#16 }) ∧
  (∀ s : State, s.stack = [] → exec .ret s = .next { s with run := .faulted .stackUnderflow })

/-- The word 1nnn decodes to JP, and executing it sets PC to nnn, zero-extended, and changes nothing else, whatever
the target. The encoding 1nnn is the spec's decision D1 (log 19). That no target is refused is the spec's decision
D12 (log 19). (40_control.md (JP; decision D1); 30_encoding.md section 3 (decision D1).) -/
def Obligations.JpSetsPcToItsTarget : Prop :=
  ∀ nnn : Addr12, decodeWord (wordNNN 0x1 nnn) = some (.jp nnn) ∧
    ∀ s : State, exec (.jp nnn) s = .next { s with pc := BitVec.ofNat 16 nnn.toNat }

/-- The word Bnnn decodes to JP V0; executing it sets PC to nnn + V[0] as a 16-bit sum and changes nothing else, and
that sum as a number is exactly nnn + V[0]. The encoding is the spec's decision D1 (log 19). (40_control.md (JP V0;
decision D7).) -/
def Obligations.JpV0AddsV0Unmasked : Prop :=
  ∀ nnn : Addr12, decodeWord (wordNNN 0xB nnn) = some (.jpV0 nnn) ∧
    ∀ s : State, exec (.jpV0 nnn) s = .next { s with pc := BitVec.ofNat 16 (nnn.toNat + s.v[0].toNat) } ∧
      (BitVec.ofNat 16 (nnn.toNat + s.v[0].toNat)).toNat = nnn.toNat + s.v[0].toNat

/-- The word 2nnn decodes to CALL. With fewer than 16 entries it pushes PC (the address of the CALL) and sets PC to
nnn, changing nothing else; with 16 or more RUN becomes Faulted(StackOverflow) and nothing else changes. The
encoding is the spec's decision D1 (log 19). (40_control.md (CALL; decision D11); 60_exceptions.md section 1.) -/
def Obligations.CallPushesItsOwnAddress : Prop :=
  ∀ nnn : Addr12, decodeWord (wordNNN 0x2 nnn) = some (.call nnn) ∧
    ∀ s : State,
      (s.stack.length < 16 →
        exec (.call nnn) s = .next { s with stack := s.pc :: s.stack, pc := BitVec.ofNat 16 nnn.toNat }) ∧
      (16 ≤ s.stack.length → exec (.call nnn) s = .next { s with run := .faulted .stackOverflow })

/-- The words 3xnn and 4xnn decode to SE and SNE; executing them adds 4 to PC when V[x] equals (differs from) nn and
2 otherwise, and changes nothing else. The encodings and SNE itself are the spec's decision D1 (log 19).
(40_control.md (SE Vx,nn and SNE Vx,nn; decision D1); 30_encoding.md section 3 (decision D1).) -/
def Obligations.SkipOnImmediateComparison : Prop :=
  ∀ (x : Reg) (nn : Byte),
    decodeWord (wordXNN 0x3 x nn.toNat) = some (.seImm x nn) ∧
    decodeWord (wordXNN 0x4 x nn.toNat) = some (.sneImm x nn) ∧
    ∀ s : State,
      exec (.seImm x nn) s = .next { s with pc := s.pc + if s.v[x.val] = nn then 4#16 else 2#16 } ∧
      exec (.sneImm x nn) s = .next { s with pc := s.pc + if s.v[x.val] = nn then 2#16 else 4#16 }

/-- The words 5xyn and 9xyn decode to SE Vx,Vy and SNE Vx,Vy for every low nibble n; executing them adds 4 to PC
when V[x] equals (differs from) V[y] and 2 otherwise, and changes nothing else. The encodings are the spec's
decision D1 (log 19). (40_control.md (SE Vx,Vy and SNE Vx,Vy); 30_encoding.md section 4 (ignored bits, decision
D2).) -/
def Obligations.SkipOnRegisterComparison : Prop :=
  ∀ (x y : Reg) (n : Nibble),
    decodeWord (wordXYN 0x5 x y n.toNat) = some (.seReg x y) ∧
    decodeWord (wordXYN 0x9 x y n.toNat) = some (.sneReg x y) ∧
    ∀ s : State,
      exec (.seReg x y) s = .next { s with pc := s.pc + if s.v[x.val] = s.v[y.val] then 4#16 else 2#16 } ∧
      exec (.sneReg x y) s = .next { s with pc := s.pc + if s.v[x.val] = s.v[y.val] then 2#16 else 4#16 }

/-- The word 6xnn decodes to LD Vx,nn; executing it writes nn to V[x], advances PC by 2 and changes nothing else,
for every x (15 too). In particular 0x600A leaves V[0] = 0x0A. (R82.) -/
def Obligations.LoadImmediateWritesOneRegister : Prop :=
  ∀ (x : Reg) (nn : Byte), decodeWord (wordXNN 0x6 x nn.toNat) = some (.ldImm x nn) ∧
    ∀ s : State, exec (.ldImm x nn) s = .next { s with v := s.v.set x.val nn, pc := s.pc + 2#16 }

/-- The word 7xnn decodes to ADD Vx,nn; executing it writes (V[x] + nn) mod 256 to V[x], advances PC by 2 and
changes nothing else: VF is not written unless x is 15. The encoding is the spec's decision D1 (log 19). (41_alu.md
(ADD Vx,nn; decision D5).) -/
def Obligations.AddImmediateWrapsWithoutFlag : Prop :=
  ∀ (x : Reg) (nn : Byte), decodeWord (wordXNN 0x7 x nn.toNat) = some (.addImm x nn) ∧
    ∀ s : State, exec (.addImm x nn) s =
      .next { s with v := s.v.set x.val (BitVec.ofNat 8 ((s.v[x.val].toNat + nn.toNat) % 256)), pc := s.pc + 2#16 }

/-- The words 8xy0 to 8xy3 decode to LD Vx,Vy, OR, AND, XOR; executing them writes V[y], or the bitwise or, and,
exclusive or of V[x] and V[y], to V[x], advances PC by 2 and changes nothing else. The bits are stated one by one.
The encodings are the spec's decision D1 (log 19). (41_alu.md (LD Vx,Vy, OR, AND, XOR; decision D6).) -/
def Obligations.MoveAndLogicLeaveTheFlag : Prop :=
  ∀ x y : Reg,
    decodeWord (wordXYN 0x8 x y 0x0) = some (.ldReg x y) ∧ decodeWord (wordXYN 0x8 x y 0x1) = some (.or x y) ∧
    decodeWord (wordXYN 0x8 x y 0x2) = some (.and x y) ∧ decodeWord (wordXYN 0x8 x y 0x3) = some (.xor x y) ∧
    ∀ s : State,
      exec (.ldReg x y) s = .next { s with v := s.v.set x.val s.v[y.val], pc := s.pc + 2#16 } ∧
      (∃ b : Byte, exec (.or x y) s = .next { s with v := s.v.set x.val b, pc := s.pc + 2#16 } ∧
        ∀ j, b.getLsbD j = (s.v[x.val].getLsbD j || s.v[y.val].getLsbD j)) ∧
      (∃ b : Byte, exec (.and x y) s = .next { s with v := s.v.set x.val b, pc := s.pc + 2#16 } ∧
        ∀ j, b.getLsbD j = (s.v[x.val].getLsbD j && s.v[y.val].getLsbD j)) ∧
      (∃ b : Byte, exec (.xor x y) s = .next { s with v := s.v.set x.val b, pc := s.pc + 2#16 } ∧
        ∀ j, b.getLsbD j = (s.v[x.val].getLsbD j ^^ s.v[y.val].getLsbD j))

/-- The word 8xy4 decodes to ADD Vx,Vy; executing it writes (V[x] + V[y]) mod 256 to V[x], then 1 to VF if the sum
exceeds 255 and 0 if not (so with x = 15 the carry is what remains), advances PC by 2 and changes nothing else, for
every x and y. That the flag is written after the result is the spec's decision D4, that this addition is the one
that writes it D5, the encoding D1 (log 19). (41_alu.md (ADD Vx,Vy; flag policy, decisions D4 and D5);
30_encoding.md section 3 (decision D1).) -/
def Obligations.AddRegistersGivesSumAndCarry : Prop :=
  ∀ x y : Reg, decodeWord (wordXYN 0x8 x y 0x4) = some (.addReg x y) ∧
    ∀ s : State, exec (.addReg x y) s = .next { s with
      v := (s.v.set x.val (BitVec.ofNat 8 ((s.v[x.val].toNat + s.v[y.val].toNat) % 256))).set 15
        (if s.v[x.val].toNat + s.v[y.val].toNat > 255 then 1#8 else 0#8)
      pc := s.pc + 2#16 }

/-- The words 8xy5 and 8xy7 decode to SUB and SUBN. SUB writes (V[x] - V[y]) mod 256 to V[x], then 1 to VF if V[x]
is at least V[y] and 0 if not; SUBN the same with the operands exchanged. Both advance PC by 2 and change nothing
else, for every x and y. That the flag is written after the result is the spec's decision D4; the encodings are D1,
and which of the two has which operand order is general knowledge (log 19). (41_alu.md (SUB and SUBN; flag policy,
decision D4); 30_encoding.md section 3 (decision D1); 93_implementation_defined.md G5.) -/
def Obligations.SubtractionsGiveDifferenceAndNotBorrow : Prop :=
  ∀ x y : Reg,
    decodeWord (wordXYN 0x8 x y 0x5) = some (.sub x y) ∧ decodeWord (wordXYN 0x8 x y 0x7) = some (.subn x y) ∧
    ∀ s : State,
      exec (.sub x y) s = .next { s with
        v := (s.v.set x.val (BitVec.ofNat 8 ((s.v[x.val].toNat + 256 - s.v[y.val].toNat) % 256))).set 15
          (if s.v[x.val].toNat ≥ s.v[y.val].toNat then 1#8 else 0#8)
        pc := s.pc + 2#16 } ∧
      exec (.subn x y) s = .next { s with
        v := (s.v.set x.val (BitVec.ofNat 8 ((s.v[y.val].toNat + 256 - s.v[x.val].toNat) % 256))).set 15
          (if s.v[y.val].toNat ≥ s.v[x.val].toNat then 1#8 else 0#8)
        pc := s.pc + 2#16 }

/-- The words 8xy6 and 8xyE decode to SHR and SHL. SHR writes V[y] div 2 to V[x], then bit 0 of V[y] to VF; SHL
writes (V[y] * 2) mod 256, then bit 7. Both advance PC by 2 and change nothing else (V[y] keeps its value unless it
is V[x] or VF). The destination x is the spec's decision D3 (log 8). The encodings are the spec's decision D1 (log
19). That the flag is written after the result is decision D4 (log 19). (41_alu.md (SHR and SHL; decision D3).) -/
def Obligations.ShiftsReadVyAndWriteVx : Prop :=
  ∀ x y : Reg,
    decodeWord (wordXYN 0x8 x y 0x6) = some (.shr x y) ∧ decodeWord (wordXYN 0x8 x y 0xE) = some (.shl x y) ∧
    ∀ s : State,
      exec (.shr x y) s = .next { s with
        v := (s.v.set x.val (BitVec.ofNat 8 (s.v[y.val].toNat / 2))).set 15 (BitVec.ofNat 8 (s.v[y.val].toNat % 2))
        pc := s.pc + 2#16 } ∧
      exec (.shl x y) s = .next { s with
        v := (s.v.set x.val (BitVec.ofNat 8 (s.v[y.val].toNat * 2 % 256))).set 15
          (BitVec.ofNat 8 (s.v[y.val].toNat / 128))
        pc := s.pc + 2#16 }

/-- The word Cxnn decodes to RND; executing it writes rnd AND nn to V[x], where rnd is the random byte of the
frame's inputs (the first listed, or where none is listed a free one), advances PC by 2 and changes nothing else. It
holds for every listed random byte, so every draw is possible. That every byte is possible is the spec's decision
D23; taking the byte from the inputs listed or else from a free one is the model's choice (log 1); the encoding is
D1 (log 19). (41_alu.md (RND; the random byte, decision D23); 30_encoding.md section 3 (decision D1).) -/
def Obligations.RndAndsTheDrawnByte : Prop :=
  ∀ (x : Reg) (nn : Byte), decodeWord (wordXNN 0xC x nn.toNat) = some (.rnd x nn) ∧
    (∀ (s : State) (inp : FrameInput) (rest : List FrameInput), s.inputs = inp :: rest →
      exec (.rnd x nn) s = .next { s with v := s.v.set x.val (inp.rnd &&& nn), pc := s.pc + 2#16 }) ∧
    (∀ s : State, s.inputs = [] →
      exec (.rnd x nn) s =
        .next { s with v := s.v.set x.val ((Config.freeInput s.frame).rnd &&& nn), pc := s.pc + 2#16 })

/-- The word Annn decodes to LD I,nnn; executing it sets I to nnn, advances PC by 2 and changes nothing else. (R98.)
-/
def Obligations.LoadIndexWritesI : Prop :=
  ∀ nnn : Addr12, decodeWord (wordNNN 0xA nnn) = some (.ldI nnn) ∧
    ∀ s : State, exec (.ldI nnn) s = .next { s with i := BitVec.ofNat 16 nnn.toNat, pc := s.pc + 2#16 }

/-- The word Fx1E decodes to ADD I,Vx; executing it sets I to (I + V[x]) mod 65536, advances PC by 2 and changes
nothing else, VF included. The encoding is the spec's decision D1 (log 19). (42_index_memory.md (ADD I,Vx; decisions
D5 and D34).) -/
def Obligations.AddToIndexWrapsWithoutFlag : Prop :=
  ∀ x : Reg, decodeWord (wordXNN 0xF x 0x1E) = some (.addI x) ∧
    ∀ s : State, exec (.addI x) s =
      .next { s with i := BitVec.ofNat 16 ((s.i.toNat + s.v[x.val].toNat) % 65536), pc := s.pc + 2#16 }

/-- The word Fx29 decodes to LD F,Vx; executing it sets I to 5 * V[x], advances PC by 2 and changes nothing else.
For V[x] up to 15 that is an address inside the font table; above 15 it is the spec's own reading (D8, log 15), not
masked to the low nibble. The encoding is the spec's decision D1 (log 19). (42_index_memory.md (LD F,Vx; decision
D8); 20_memory.md section 1.) -/
def Obligations.FontLookupMultipliesByFive : Prop :=
  ∀ x : Reg, decodeWord (wordXNN 0xF x 0x29) = some (.ldF x) ∧
    ∀ s : State,
      exec (.ldF x) s = .next { s with i := BitVec.ofNat 16 (5 * s.v[x.val].toNat), pc := s.pc + 2#16 } ∧
      (BitVec.ofNat 16 (5 * s.v[x.val].toNat)).toNat = 5 * s.v[x.val].toNat

/-- The word Fx33 decodes to LD B,Vx. From a state with canonical memory: if I + 3 is at most 4096, the next state
differs from the old only in PC (+2) and memory; memory stays canonical, the bytes at I, I+1, I+2 are V[x] div 100,
(V[x] div 10) mod 10, V[x] mod 10, and every other byte reads as before. If I + 3 exceeds 4096, PC advances by 2,
RUN becomes Faulted(MemoryBounds) and nothing else changes (decision D13). I is not changed (decision D9). The
encoding is the spec's decision D1 (log 19). (42_index_memory.md (LD B,Vx; decisions D9 and D13); 20_memory.md
section 4.) -/
def Obligations.BcdStoreWritesThreeDigits : Prop :=
  ∀ x : Reg, decodeWord (wordXNN 0xF x 0x33) = some (.ldB x) ∧
    ∀ s : State,
      (Memory.wf s.mem = true → s.i.toNat + 3 ≤ 4096 → ∃ m : Memory,
        exec (.ldB x) s = .next { s with pc := s.pc + 2#16, mem := m } ∧ Memory.wf m = true ∧
        (Memory.read m s.i.toNat).toNat = s.v[x.val].toNat / 100 ∧
        (Memory.read m (s.i.toNat + 1)).toNat = s.v[x.val].toNat / 10 % 10 ∧
        (Memory.read m (s.i.toNat + 2)).toNat = s.v[x.val].toNat % 10 ∧
        ∀ a, ¬ (s.i.toNat ≤ a ∧ a < s.i.toNat + 3) → Memory.read m a = Memory.read s.mem a) ∧
      (4096 < s.i.toNat + 3 →
        exec (.ldB x) s = .next { s with pc := s.pc + 2#16, run := .faulted .memoryBounds })

/-- The word Fx55 decodes to LD [I],Vx. From a state with canonical memory: if I + x + 1 is at most 4096, the next
state differs only in PC (+2), I (+ x + 1 modulo 65536) and memory; memory stays canonical, byte I + k is V[k] for k
up to x, and every other byte reads as before. If I + x + 1 exceeds 4096, I and PC advance likewise, RUN becomes
Faulted(MemoryBounds) and nothing else changes (decisions D13, D34). The encoding is the spec's decision D1 (log
19). (42_index_memory.md (LD [I],Vx; decisions D13 and D34); 20_memory.md section 4.) -/
def Obligations.BulkStoreWritesV0ToVx : Prop :=
  ∀ x : Reg, decodeWord (wordXNN 0xF x 0x55) = some (.ldMemVx x) ∧
    ∀ s : State,
      (Memory.wf s.mem = true → s.i.toNat + x.val + 1 ≤ 4096 → ∃ m : Memory,
        exec (.ldMemVx x) s = .next { s with
          i := BitVec.ofNat 16 ((s.i.toNat + x.val + 1) % 65536), pc := s.pc + 2#16, mem := m } ∧
        Memory.wf m = true ∧
        (∀ k : Reg, k.val ≤ x.val → Memory.read m (s.i.toNat + k.val) = s.v[k.val]) ∧
        ∀ a, ¬ (s.i.toNat ≤ a ∧ a < s.i.toNat + x.val + 1) → Memory.read m a = Memory.read s.mem a) ∧
      (4096 < s.i.toNat + x.val + 1 →
        exec (.ldMemVx x) s = .next { s with
          i := BitVec.ofNat 16 ((s.i.toNat + x.val + 1) % 65536), pc := s.pc + 2#16,
          run := .faulted .memoryBounds })

/-- The word Fx65 decodes to LD Vx,[I]. If I + x + 1 is at most 4096, the next state differs only in PC (+2), I (+ x
+ 1 modulo 65536) and the registers; V[k] is the byte at I + k for k up to x (VF too when x = 15), every other
register and all of memory are unchanged. If I + x + 1 exceeds 4096, I and PC advance likewise, RUN becomes
Faulted(MemoryBounds) and nothing else changes (decisions D13, D34). The encoding is the spec's decision D1 (log
19). (42_index_memory.md (LD Vx,[I]; decisions D13 and D34); 20_memory.md section 4.) -/
def Obligations.BulkLoadReadsV0ToVx : Prop :=
  ∀ x : Reg, decodeWord (wordXNN 0xF x 0x65) = some (.ldVxMem x) ∧
    ∀ s : State,
      (s.i.toNat + x.val + 1 ≤ 4096 → ∃ v : Vector Byte 16,
        exec (.ldVxMem x) s = .next { s with
          v := v, i := BitVec.ofNat 16 ((s.i.toNat + x.val + 1) % 65536), pc := s.pc + 2#16 } ∧
        ∀ k : Reg, v[k.val] = if k.val ≤ x.val then Memory.read s.mem (s.i.toNat + k.val) else s.v[k.val]) ∧
      (4096 < s.i.toNat + x.val + 1 →
        exec (.ldVxMem x) s = .next { s with
          i := BitVec.ofNat 16 ((s.i.toNat + x.val + 1) % 65536), pc := s.pc + 2#16,
          run := .faulted .memoryBounds })

/-- From a state with canonical memory and I + k + 1 at most 4096: after LD [I],Vk, in any state with that memory
and with I set back to the old address, LD Vk,[I] answers a next state in which V[0] to V[k] are the registers
stored, whatever was in them in between. The bounds fatal is the spec's decision D13 (log 19). (42_index_memory.md
(round trip); 95_test_vectors.md S7.) -/
def Obligations.BulkTransferRoundTrip : Prop :=
  ∀ (k : Reg) (s t u : State), Memory.wf s.mem = true → s.i.toNat + k.val + 1 ≤ 4096 →
    exec (.ldMemVx k) s = .next t → u.mem = t.mem → u.i = s.i →
    ∃ w, exec (.ldVxMem k) u = .next w ∧ ∀ r : Reg, r.val ≤ k.val → w.v[r.val] = s.v[r.val]

/-- From a state with canonical memory in which I is the address after this instruction, x is at least 1, and I + x
+ 1 is at most 4096, so that the whole store is in bounds (beyond that it is fatal, decision D13): after LD [I],Vx
the next fetch reads V[0] as the high byte and V[1] as the low byte of its word. LD [I],V0 and LD B are not covered
here: what they store is stated by BulkStoreWritesV0ToVx and BcdStoreWritesThreeDigits. That the store is seen by
the next fetch is the spec's decision D33 (log 19). (20_memory.md section 5 (instruction-fetch coherence, decision
D33); 70_reset_and_hazards.md section 3; 20_memory.md section 4 (data bounds, decision D13).) -/
def Obligations.StoreIsSeenByTheNextFetch : Prop :=
  ∀ (x : Reg) (s t : State), Memory.wf s.mem = true → 1 ≤ x.val → s.i = s.pc + 2#16 →
    s.i.toNat + x.val + 1 ≤ 4096 → exec (.ldMemVx x) s = .next t →
    t.fetch = some (wordOfBytes s.v[0] s.v[1])

/-- 0x00E0 decodes to CLS; executing it advances PC by 2, makes every pixel unlit, appends one clear event to the
frame's output, and changes nothing else, whatever was lit. (R106.) -/
def Obligations.ClsUnlightsEveryPixel : Prop :=
  decodeWord 0x00E0#16 = some .cls ∧
    ∀ s : State, ∃ fb : FrameBuffer,
      exec .cls s = .next { s with
        pc := s.pc + 2#16, fb := fb, out := { s.out with render := s.out.render ++ [.clear] } } ∧
      ∀ x y, FrameBuffer.pixel fb x y = false

/-- The word Dxyn decodes to DRW. If I + n is at most 4096, the next state differs only in PC (+2), VF, the
framebuffer and the emitted events: a pixel changes exactly when a 1 bit of the n bytes at I lies over it (bit 7
leftmost, column (V[x]+c) mod 64, row (V[y]+r) mod 32, with the old values of V[x] and V[y]); VF is 1 if a pixel lit
before lies under a 1 bit and 0 if none; the events are the draw engine's, after those already emitted. If I + n
exceeds 4096, PC advances, RUN becomes Faulted(MemoryBounds), and nothing else changes. That bit 7 is leftmost is
decision D20, the bounds fatal and its test D13 and D14 (log 19). (43_display.md (DRW, wrap, collision, events;
decisions D19 and D35); 20_memory.md section 4.) -/
def Obligations.DrwXorsTheSpriteOntoTheScreen : Prop :=
  ∀ (x y : Reg) (n : Nibble), decodeWord (wordXYN 0xD x y n.toNat) = some (.drw x y n) ∧
    ∀ s : State,
      (s.i.toNat + n.toNat ≤ 4096 → ∃ (fb : FrameBuffer) (f : Byte),
        exec (.drw x y n) s = .next { s with
          pc := s.pc + 2#16, v := s.v.set 15 f, fb := fb,
          out := { s.out with render := s.out.render ++
            (xorDraw s.fb s.v[x.val] s.v[y.val] (Memory.readBytes s.mem s.i.toNat n.toNat)).events } } ∧
        (∀ px py, FrameBuffer.pixel fb px py ≠ FrameBuffer.pixel s.fb px py ↔
          UnderSpriteBit s.mem s.v[x.val].toNat s.v[y.val].toNat s.i.toNat n.toNat px py) ∧
        (f = 0#8 ∨ f = 1#8) ∧
        (f = 1#8 ↔ ∃ px py, FrameBuffer.pixel s.fb px py = true ∧
          UnderSpriteBit s.mem s.v[x.val].toNat s.v[y.val].toNat s.i.toNat n.toNat px py)) ∧
      (4096 < s.i.toNat + n.toNat →
        exec (.drw x y n) s = .next { s with pc := s.pc + 2#16, run := .faulted .memoryBounds })

/-- For every framebuffer, origin and sprite, the draw engine's framebuffer (pixel by pixel), its list of change
events in order, and its any_erased are those of the spec's pseudocode run loop for loop: rows top first, columns
left first, bit 7 first, columns modulo 64, rows modulo 32. That bit 7 is leftmost is the spec's decision D20, and
which pixels give events D19 (log 19). (43_display.md (the XOR-draw engine; decisions D19 and D20).) -/
def Obligations.XorDrawIsThePseudocode : Prop :=
  ∀ (fb : FrameBuffer) (x0 y0 : Byte) (sprite : List Byte),
    xorDrawLoops (FrameBuffer.pixel fb) x0.toNat y0.toNat sprite =
      (FrameBuffer.pixel (xorDraw fb x0 y0 sprite).fb, (xorDraw fb x0 y0 sprite).events,
        (xorDraw fb x0 y0 sprite).anyErased)

/-- For every framebuffer, origin and sprite of at most 15 rows: drawing it twice gives the framebuffer back;
any_erased of a draw is true exactly when some pixel lit before it has a sprite bit of 1 over it; and if the pixels
under the bits were unlit and some bit is 1, the second draw reports any_erased. That bit 7 - c of a sprite byte
lies over column x0 + c is the spec's decision D20 (log 19). (43_display.md (XOR and collision; bit order, decision
D20).) -/
def Obligations.DrawingTwiceRestoresTheScreen : Prop :=
  ∀ (fb : FrameBuffer) (x0 y0 : Byte) (sprite : List Byte), sprite.length ≤ 15 →
    (xorDraw (xorDraw fb x0 y0 sprite).fb x0 y0 sprite).fb = fb ∧
    ((xorDraw fb x0 y0 sprite).anyErased = true ↔
      ∃ r c, r < sprite.length ∧ c < 8 ∧ (sprite.getD r 0#8).getLsbD (7 - c) = true ∧
        FrameBuffer.pixel fb (wrapCol x0.toNat c) (wrapRow y0.toNat r) = true) ∧
    ((xorDraw fb x0 y0 sprite).anyErased = false → (∃ b ∈ sprite, b ≠ 0#8) →
      (xorDraw (xorDraw fb x0 y0 sprite).fb x0 y0 sprite).anyErased = true)

/-- For every state and every next state of a step: replaying the events the frame emitted, in order, on the
framebuffer before it gives the framebuffer after it. So a render collaborator that sees only the events always
holds the true screen. It rests on the spec's decision D19 on which pixels give events. (43_display.md (render
events, decision D19); 45_frame_sequencer.md section 3 (order of outputs).) -/
def Obligations.FramebufferIsTheReplayOfEvents : Prop :=
  ∀ s t : State, step s = .next t → t.fb = replayEvents s.fb t.out.render

/-- The words Ex9E and ExA1 decode to SKP and SKNP. If V[x] is k below 16, SKP adds 4 to PC when KEY[k] is set and 2
when not, SKNP the other way round, and nothing else changes; if V[x] is above 15, RUN becomes Faulted(KeyIndex) and
nothing else changes. The encodings are the spec's decision D1 (log 19). (44_keypad_timer_ops.md (SKP, SKNP, key
index check; decisions D28 and D29).) -/
def Obligations.KeySkipsReadTheLatch : Prop :=
  ∀ x : Reg,
    decodeWord (wordXNN 0xE x 0x9E) = some (.skp x) ∧ decodeWord (wordXNN 0xE x 0xA1) = some (.sknp x) ∧
    ∀ s : State,
      (∀ k : KeyCode, s.v[x.val].toNat = k.val →
        exec (.skp x) s = .next { s with pc := s.pc + if s.key[k.val] = true then 4#16 else 2#16 } ∧
        exec (.sknp x) s = .next { s with pc := s.pc + if s.key[k.val] = true then 2#16 else 4#16 }) ∧
      (15 < s.v[x.val].toNat →
        exec (.skp x) s = .next { s with run := .faulted .keyIndex } ∧
        exec (.sknp x) s = .next { s with run := .faulted .keyIndex })

/-- The word Fx0A decodes to LD Vx,K; executing it advances PC by 2, sets MS to WaitKeyPress(x), and changes nothing
else: the register keeps its old value until the key arrives. The encoding is the spec's decision D1 (log 19).
(44_keypad_timer_ops.md (LD Vx,K; decision D30).) -/
def Obligations.KeyWaitSuspendsExecution : Prop :=
  ∀ x : Reg, decodeWord (wordXNN 0xF x 0x0A) = some (.ldVxK x) ∧
    ∀ s : State, exec (.ldVxK x) s = .next { s with pc := s.pc + 2#16, ms := .waitKeyPress x }

/-- The words Fx07, Fx15 and Fx18 decode to LD Vx,DT, LD DT,Vx and LD ST,Vx; they copy DT to V[x], V[x] to DT, V[x]
to ST, advance PC by 2 and change nothing else. The encodings are the spec's decision D1 (log 19).
(44_keypad_timer_ops.md (LD Vx,DT, LD DT,Vx, LD ST,Vx).) -/
def Obligations.TimerMovesCopyOneByte : Prop :=
  ∀ x : Reg,
    decodeWord (wordXNN 0xF x 0x07) = some (.ldVxDt x) ∧ decodeWord (wordXNN 0xF x 0x15) = some (.ldDtVx x) ∧
    decodeWord (wordXNN 0xF x 0x18) = some (.ldStVx x) ∧
    ∀ s : State,
      exec (.ldVxDt x) s = .next { s with v := s.v.set x.val s.dt, pc := s.pc + 2#16 } ∧
      exec (.ldDtVx x) s = .next { s with dt := s.v[x.val], pc := s.pc + 2#16 } ∧
      exec (.ldStVx x) s = .next { s with st := s.v[x.val], pc := s.pc + 2#16 }

/-- For a running machine in WaitKeyPress(r) whose frame's event is Key(k), whatever its time input (elapsed time or
tick Booleans): after steps 1 and 2, k is in V[r], MS is Normal, KEY[k] is set, and nothing else has changed but
outputs, clock and CPU gate. If the CPU gate does not tick, the frame ends from there with steps 4 and 5. If it
does, step 3 executes one instruction in exactly that state, so it sees the key pressed, and steps 4 and 5 follow
unless it was fatal. That the instruction follows in the waking frame is decision D17, that the CPU gate covers step
3 only D16, the flag set in step 1 D36, timers resting at zero D18 (log 19). (45_frame_sequencer.md section 2 (steps
1 to 5; decisions D16, D17 and D36); 44_keypad_timer_ops.md (LD Vx,K; decision D30); 70_reset_and_hazards.md section
3 (key wait hazards); 60_exceptions.md section 3 (the gate; the 60 Hz step, decision D18).) -/
def Obligations.WakeStoresTheKeyAndResumes : Prop :=
  ∀ (s : State) (r : Reg) (k : KeyCode), s.run = .running → s.ms = .waitKeyPress r → s.frameInput.ev = .key k →
    let woken : State :=
      { timeRead s with key := s.key.set k.val true, v := s.v.set r.val (BitVec.ofNat 8 k.val), ms := .normal }
    (cpuTicks s = false → step s = .next (frameEnd s woken)) ∧
    (cpuTicks s = true → ∃ u, executeOne woken = .next u ∧
      step s = .next (if u.run = .running then frameEnd s u else u))

/-- For a running machine in WaitKeyPress(r) whose frame has no event, whatever its time input and whether the CPU
gate ticks or not: the frame changes nothing but the clock and the gates' baselines, the timers, which count down
(and the beep) exactly when the 60 Hz gate ticks, and the frame's own bookkeeping; MS, PC and every register stay.
That a timer at zero stays at zero is the spec's decision D18, that the CPU gate covers step 3 only D16 (log 19).
(60_exceptions.md section 4 (wait state); 45_frame_sequencer.md section 2 (decision D16); 60_exceptions.md section 3
(the gate; the 60 Hz step, decision D18).) -/
def Obligations.WaitingMachineExecutesNothing : Prop :=
  ∀ (s : State) (r : Reg), s.run = .running → s.ms = .waitKeyPress r → s.frameInput.ev = .none →
    step s = .next (frameEnd s (timeRead s))

/-- For a running machine, a frame whose event is not Exit, and the state u that step 3 leaves unfaulted: if the 60
Hz gate ticks, the timers after the frame are u's counted down and beep says that u's sound timer was nonzero; if
not, they are u's and there is no beep. This holds whatever MS is. That a timer at zero stays at zero is the spec's
decision D18 (log 19). (45_frame_sequencer.md section 2 (step 4); 60_exceptions.md section 3 (the 60 Hz step;
decision D18).) -/
def Obligations.SixtyHzStepFollowsTheInstruction : Prop :=
  ∀ s u : State, s.run = .running → s.frameInput.ev ≠ .exit →
    stepThree (beginFrame s.frameInput s).1 (beginFrame s.frameInput s).2 = .next u → u.run = .running →
    ∃ t, step s = .next t ∧
      if (pollSixtyGate s.frameInput.time u).1 = true then
        t.dt = countedDown u.dt ∧ t.st = countedDown u.st ∧ t.out.beep = decide (u.st ≠ 0#8)
      else t.dt = u.dt ∧ t.st = u.st ∧ t.out.beep = false

/-- For every state and the next state t of its step: beep is true in t exactly when the machine was running, the
event was not Exit, step 3 left the machine running in some state u, the 60 Hz gate ticked in u, and u's sound timer
was nonzero. (R158.) -/
def Obligations.BeepExactlyWhenSoundTimerNonzero : Prop :=
  ∀ s t : State, step s = .next t →
    (t.out.beep = true ↔ s.run = .running ∧ s.frameInput.ev ≠ .exit ∧
      ∃ u, stepThree (beginFrame s.frameInput s).1 (beginFrame s.frameInput s).2 = .next u ∧ u.run = .running ∧
        (pollSixtyGate s.frameInput.time u).1 = true ∧ u.st ≠ 0#8)

/-- For every state and every k: after k 60 Hz steps each timer holds its first value less k, never below zero, and
the next 60 Hz step beeps exactly when k is less than the first value of the sound timer. That a timer at zero stays
at zero is the spec's decision D18 (log 19). (60_exceptions.md section 3 (the 60 Hz step; decision D18).) -/
def Obligations.TimerLoadedWithNBeepsNTimes : Prop :=
  ∀ (s : State) (k : Nat),
    (timerStep^[k] s).dt.toNat = s.dt.toNat - k ∧ (timerStep^[k] s).st.toNat = s.st.toNat - k ∧
    (timerStep (timerStep^[k] s)).out.beep = decide (k < s.st.toNat)

/-- For every interval, baseline and sequence of poll times: the times of a gate's true results are pairwise at
least the interval apart and at least the interval after the baseline; and one poll is true exactly when now -
baseline, as integers, is at least the interval, moving the baseline to now, and leaves the baseline otherwise.
(60_exceptions.md section 3 (the gate); 95_test_vectors.md S8.) -/
def Obligations.GateTicksAreAnIntervalApart : Prop :=
  (∀ (interval last : Nat) (nows : List Nat),
    (trueTimes interval last nows).Pairwise (fun a b => a + interval ≤ b) ∧
    ∀ a ∈ trueTimes interval last nows, last + interval ≤ a) ∧
  (∀ interval last now : Nat,
    ((now : Int) - (last : Int) ≥ (interval : Int) → gateTick interval last now = (true, now)) ∧
    (¬ (now : Int) - (last : Int) ≥ (interval : Int) → gateTick interval last now = (false, last)))

/-- For a running machine in a frame whose event is not Exit and in which d units of time have passed: the clock
advances by d; the CPU gate is polled whatever MS is, and its baseline is the new time if at least its interval has
passed since the old one, else the old one; an instruction executes exactly when that interval has passed and MS
after step 2 is Normal, and gives u, and otherwise u is the state in which step 3 begins. If u is not running, a
fatal has ended the frame: its answer is u and GATE_60 is not polled. If u is running, the 60 Hz step runs on u's
timers exactly when the 60 Hz interval has passed since that gate's baseline, which then is the new time; if not,
timers and baseline stay and there is no beep. The gate on step 3 only is decision D16, the wake before step 3 D17,
the flag in step 1 D36, timers resting at zero D18 (log 19). (45_frame_sequencer.md sections 2 and 3 (gates;
decisions D16, D17 and D36); 60_exceptions.md section 3 (the gate; the 60 Hz step, decision D18); 60_exceptions.md
section 2 (priority of simultaneous events).) -/
def Obligations.GatesArePolledInEveryFrame : Prop :=
  ∀ (s : State) (d : Nat), s.run = .running → s.frameInput.ev ≠ .exit → s.frameInput.time = .elapsed d →
    ∃ u t : State, step s = .next t ∧
      (if s.gateCpu + Config.cpuInterval ≤ s.clock + d ∧ (inputTaken s).ms = .normal then
        executeOne (inputTaken s) = .next u
      else u = inputTaken s) ∧
      t.clock = s.clock + d ∧
      t.gateCpu = (if s.gateCpu + Config.cpuInterval ≤ s.clock + d then s.clock + d else s.gateCpu) ∧
      (u.run ≠ .running → t = u ∧ t.gate60 = s.gate60) ∧
      (u.run = .running →
        if s.gate60 + Config.t60Interval ≤ s.clock + d then
          t = { timerStep u with gate60 := s.clock + d, key := noKeys, inputs := u.inputs.tail, frame := u.frame + 1 } ∧
          t.dt = countedDown u.dt ∧ t.st = countedDown u.st ∧ t.out.beep = decide (u.st ≠ 0#8)
        else
          t = { u with key := noKeys, inputs := u.inputs.tail, frame := u.frame + 1 } ∧ t.gate60 = s.gate60 ∧
          t.out.beep = false)

/-- For a running machine in Normal with no key flag set, a CPU tick, no 60 Hz tick, a fetchable SKP Vx at PC and
V[x] = j: if the frame's event is Key(k), PC advances by 4 when k = j and by 2 when not; if there is no event it
advances by 2. After either frame every key flag is false and nothing else has changed but the frame's bookkeeping.
The CPU gate on step 3 only is decision D16 (log 19). (45_frame_sequencer.md section 2 (steps 1 and 5; decision
D36); 70_reset_and_hazards.md section 3 (key pulse hazard).) -/
def Obligations.KeyPulseLastsOneFrame : Prop :=
  ∀ (s : State) (x : Reg) (j : KeyCode), s.key = noKeys → decodeWord (fetchedWord s) = some (.skp x) →
    s.v[x.val].toNat = j.val →
    (∀ k : KeyCode, Ready s (.key k) false →
      step s = .next (afterQuietFrame { s with pc := s.pc + if k = j then 4#16 else 2#16 })) ∧
    (Ready s .none false → step s = .next (afterQuietFrame { s with pc := s.pc + 2#16 }))

/-- Raising a fatal sets RUN to Faulted(cause) and changes nothing else. If step 3 of a running machine's frame
leaves the machine not running, that state is what the step answers: steps 4 and 5 do not happen. From a faulted or
stopped state any number of frames answers a state equal to it but for the outputs, which are empty once a frame has
passed. Stopped is the spec's decision D25 and the state after a fatal D27 (log 19); that such a frame empties the
outputs is the model's choice (log 11), and that it reads no clock is deduced (log 14). (60_exceptions.md section 1
(raise; the stop, decision D25; the state after a fatal, decision D27); 45_frame_sequencer.md sections 1 and 2.) -/
def Obligations.FatalEndsTheFrameAndTheRun : Prop :=
  (∀ (s : State) (c : Fault), s.raise c = { s with run := .faulted c }) ∧
  (∀ s u : State, s.run = .running → s.frameInput.ev ≠ .exit →
    stepThree (beginFrame s.frameInput s).1 (beginFrame s.frameInput s).2 = .next u → u.run ≠ .running →
    step s = .next u) ∧
  (∀ (s : State) (k : Nat), s.run ≠ .running →
    Sys2Proof.core.run (k + 1) s = .next { s with out := FrameOutput.empty })

/-- For a running machine whose frame's event is Exit, whatever else the frame's inputs are: the step sets RUN to
Stopped, emits nothing, and changes nothing else, even if the instruction at PC would have been fatal.
(45_frame_sequencer.md section 2 (step 1; decision D36); 60_exceptions.md section 1 (Stopped; decision D25).) -/
def Obligations.ExitStopsBeforeAnythingElse : Prop :=
  ∀ s : State, s.run = .running → s.frameInput.ev = .exit →
    step s = .next { s with run := .stopped, out := FrameOutput.empty }

/-- For a running machine in Normal with PC at or above 0xFFF, in a frame with no event and a CPU tick: the step
sets RUN to Faulted(FetchOutOfRange), outputs a dump holding V, I, PC, the stack, DT and ST, and changes nothing
else. The CPU gate on step 3 only is decision D16 (log 19). (20_memory.md section 3 (fetch bound); 60_exceptions.md
section 1 (register dump; decision D27).) -/
def Obligations.FetchOutOfRangeStopsWithDump : Prop :=
  ∀ (s : State) (t60 : Bool), s.run = .running → s.ms = .normal → s.frameInput.ev = .none →
    s.frameInput.time = .ticks true t60 → 0x0FFF ≤ s.pc.toNat →
    step s = .next { s with
      run := .faulted .fetchOutOfRange
      out := { render := [], beep := false
               dump := some { v := s.v, i := s.i, pc := s.pc, stack := s.stack, dt := s.dt, st := s.st } } }

/-- For a running machine in Normal that can fetch, in a frame with no event and a CPU tick: if the fetched word is
unknown the step sets RUN to Faulted(UnknownOpcode(w)), outputs the register dump, and changes nothing else. And
whenever a step of a running machine leaves RUN = Faulted(UnknownOpcode(w)), w is unknown and is the word at PC: no
other word can raise it. What the dump holds and what the fatal leaves are the spec's decision D27 (log 19), read
with log 12 (DEDUCED). (60_exceptions.md section 1 (UnknownOpcode; table of fatal causes and register dump, decision
D27); 30_encoding.md section 4 (unknown encodings).) -/
def Obligations.UnknownWordStopsWithDumpOnlyIfFetched : Prop :=
  (∀ (s : State) (t60 : Bool), Ready s .none t60 → decodeWord (fetchedWord s) = none →
    step s = .next { s with
      run := .faulted (.unknownOpcode (fetchedWord s))
      out := { render := [], beep := false
               dump := some { v := s.v, i := s.i, pc := s.pc, stack := s.stack, dt := s.dt, st := s.st } } }) ∧
  (∀ (s t : State) (w : Word), s.run = .running → step s = .next t → t.run = .faulted (.unknownOpcode w) →
    decodeWord w = none ∧ w = fetchedWord s ∧ s.pc.toNat < 0x0FFF)

/-- For every instruction and running state: if the next state of exec is not running, then it is RET on an empty
stack (nothing else changed), CALL with 16 or more entries (nothing else changed), SKP or SKNP with V[x] above 15
(nothing else changed), DRW with I + n over 4096 (PC advanced), LD B with I + 3 over 4096 (PC advanced), or a bulk
transfer with I + x + 1 over 4096 (PC and I advanced), with the cause the spec names and the exact state left.
(60_exceptions.md section 1 (table of fatal causes; decisions D11, D13, D27, D28).) -/
def Obligations.OnlyTheseInstructionsAreFatal : Prop :=
  ∀ (i : Instr) (s t : State), s.run = .running → exec i s = .next t → t.run ≠ .running →
    (i = .ret ∧ s.stack = [] ∧ t = { s with run := .faulted .stackUnderflow }) ∨
    (∃ nnn, i = .call nnn ∧ 16 ≤ s.stack.length ∧ t = { s with run := .faulted .stackOverflow }) ∨
    (∃ x, (i = .skp x ∨ i = .sknp x) ∧ 15 < (s.reg x).toNat ∧ t = { s with run := .faulted .keyIndex }) ∨
    (∃ x y n, i = .drw x y n ∧ 4096 < s.i.toNat + n.toNat ∧
      t = { s with pc := s.pc + 2#16, run := .faulted .memoryBounds }) ∨
    (∃ x, i = .ldB x ∧ 4096 < s.i.toNat + 3 ∧
      t = { s with pc := s.pc + 2#16, run := .faulted .memoryBounds }) ∨
    (∃ x : Reg, (i = .ldMemVx x ∨ i = .ldVxMem x) ∧ 4096 < s.i.toNat + x.val + 1 ∧
      t = { s with i := s.i + BitVec.ofNat 16 (x.val + 1), pc := s.pc + 2#16, run := .faulted .memoryBounds })

/-- For every instruction and its next state: every general register other than the instruction's destination is
unchanged; VF is a destination only of ADD Vx,Vy, SUB, SUBN, SHR, SHL and DRW, or where the instruction names it (LD
Vx,[I] with x = 15 included). In particular control transfers, stores, CLS, key skips, LD Vx,K (at issue) and writes
of I, DT and ST change no register. That SHR and SHL write V[x] and leave V[y] is the spec's decision D3 (log 8);
which instructions write VF is decided by D5 and D6, and that LD Vx,K writes its register only at the wake by D30
(log 19). (10_state.md section 1; 41_alu.md (flag policy, decisions D5 and D6; SHR and SHL, decision D3);
42_index_memory.md; 43_display.md; 44_keypad_timer_ops.md (LD Vx,K; decision D30).) -/
def Obligations.RegistersChangeOnlyAsNamed : Prop :=
  ∀ (i : Instr) (s t : State), exec i s = .next t → ∀ r : Reg, ¬ writesReg i r → t.v[r.val] = s.v[r.val]

/-- For every state with canonical memory and the next state of its step: if a byte reads differently after it, then
the machine was running, the word at PC decodes to LD B with the address among the three bytes at I, or to LD [I],Vx
with the address among the x + 1 bytes at I. No input, key, timer or other instruction writes memory. For one
instruction on its own: every byte it does not store to reads as before. (R52.) -/
def Obligations.MemoryChangesOnlyWhereStored : Prop :=
  (∀ (s t : State) (a : Nat), Memory.wf s.mem = true → step s = .next t →
    Memory.read t.mem a ≠ Memory.read s.mem a →
    s.run = .running ∧ ∃ i, decodeWord (fetchedWord s) = some i ∧ storesTo i s a) ∧
  (∀ (i : Instr) (s t : State) (a : Nat), Memory.wf s.mem = true → exec i s = .next t → ¬ storesTo i s a →
    Memory.read t.mem a = Memory.read s.mem a)

/-- For every instruction and its next state: the call stack changes only under CALL and RET; I only under LD I, ADD
I, LD F, LD [I],Vx and LD Vx,[I]; DT only under LD DT,Vx; ST only under LD ST,Vx; the framebuffer and the emitted
events only under CLS and DRW; MS only under LD Vx,K; beep, dump, key flags, gate baselines, clock and inputs under
none. That LD B and DRW leave I is decided by D9 and D35, what LD Vx,K does by D30 (log 19). (10_state.md sections 2
to 5; 43_display.md; 44_keypad_timer_ops.md; 45_frame_sequencer.md section 3.) -/
def Obligations.OtherStateChangesOnlyAsNamed : Prop :=
  ∀ (i : Instr) (s t : State), exec i s = .next t →
    ((∀ nnn, i ≠ .call nnn) → i ≠ .ret → t.stack = s.stack) ∧
    ((∀ nnn, i ≠ .ldI nnn) → (∀ x, i ≠ .addI x ∧ i ≠ .ldF x ∧ i ≠ .ldMemVx x ∧ i ≠ .ldVxMem x) → t.i = s.i) ∧
    ((∀ x, i ≠ .ldDtVx x) → t.dt = s.dt) ∧ ((∀ x, i ≠ .ldStVx x) → t.st = s.st) ∧
    (i ≠ .cls → (∀ x y n, i ≠ .drw x y n) → t.fb = s.fb ∧ t.out = s.out) ∧
    ((∀ x, i ≠ .ldVxK x) → t.ms = s.ms) ∧
    t.out.beep = s.out.beep ∧ t.out.dump = s.out.dump ∧ t.key = s.key ∧ t.gateCpu = s.gateCpu ∧
    t.gate60 = s.gate60 ∧ t.clock = s.clock ∧ t.inputs = s.inputs ∧ t.frame = s.frame

/-- Take two states that differ only in the random byte of the coming frame's inputs, where the frame of the first
does not execute RND: the machine is not running, or the event is Exit, or no instruction executes, or the fetch is
out of range, or the word at PC does not decode to RND. If the step from the first leaves the machine running, the
step from the second answers the very same state. If not (it had ended before, or Exit, or a fatal), the two answers
agree but for the inputs, which neither frame has used up (log 13). When an instruction executes rests on decision
D16 (log 19). (45_frame_sequencer.md section 1 (inputs); 45_frame_sequencer.md section 2 (step 3; decision D16);
41_alu.md (the random byte; decision D23).) -/
def Obligations.RandomByteReachesOnlyRnd : Prop :=
  ∀ (s t : State) (inp : FrameInput) (rest : List FrameInput) (b : Byte),
    ¬ ExecutesRnd { s with inputs := inp :: rest } →
    step { s with inputs := inp :: rest } = .next t →
    step { s with inputs := { inp with rnd := b } :: rest } =
      .next (if t.run = .running then t else { t with inputs := { inp with rnd := b } :: rest })

/-- For a running machine in a frame whose event is not Exit and in which the CPU gate does not tick, whatever MS,
the event and the 60 Hz tick are and in either form of the time input: the step is steps 1 and 2 (key latch, wake),
then steps 4 and 5 (60 Hz step if that gate ticks, key clear), and nothing else: no instruction executes. With no
key flag set, no event and neither tick given, the step changes nothing but the frame's own bookkeeping (outputs
empty, inputs used up). The CPU gate on step 3 only is decision D16, the wake in its frame D17, the flag in step 1
D36, timers resting at zero D18 (log 19). (45_frame_sequencer.md section 2 (step 3; decisions D16, D17 and D36);
45_frame_sequencer.md section 3 (frames in which nothing happens); 60_exceptions.md section 3 (the gate; the 60 Hz
step, decision D18).) -/
def Obligations.IdleFrameChangesNothing : Prop :=
  (∀ s : State, s.run = .running → s.frameInput.ev ≠ .exit → cpuTicks s = false →
    step s = .next (frameEnd s (inputTaken s))) ∧
  (∀ s : State, s.run = .running → s.key = noKeys → s.frameInput.ev = .none →
    s.frameInput.time = .ticks false false →
    step s = .next { s with out := FrameOutput.empty, inputs := s.inputs.tail, frame := s.frame + 1 })

/-- For a running machine in Normal with no key flag set that can fetch, whose word at PC is a JP to PC itself, in a
frame with no event, a CPU tick and no 60 Hz tick: the step changes nothing but the frame's own bookkeeping. The CPU
gate on step 3 only is decision D16 (log 19). (70_reset_and_hazards.md section 4 (ending a program);
45_frame_sequencer.md section 3 (the end of a run).) -/
def Obligations.JumpToSelfIdles : Prop :=
  ∀ (s : State) (nnn : Addr12), Ready s .none false → s.key = noKeys →
    decodeWord (fetchedWord s) = some (.jp nnn) → nnn.toNat = s.pc.toNat →
    step s = .next { s with out := FrameOutput.empty, inputs := s.inputs.tail, frame := s.frame + 1 }
end

