-- ==== Sys2Proof/Laws/Decode.lean ====
section
/-! SUPPORT. What the decoder's field extractions and the encoder's formats are as numbers: with these, a fact about a
word is linear arithmetic (spec/00_scope.md R7, R9, spec/30_encoding.md R54, R55). -/

namespace Sys2Proof.Laws

/-! ### Fields of a word -/

theorem topNibble_eq (w : Word) : topNibble w = w.toNat / 4096 := by
  have := w.isLt
  simp only [topNibble, BitVec.extractLsb'_toNat, Nat.shiftRight_eq_div_pow]
  omega

theorem fieldX_val (w : Word) : (fieldX w).val = w.toNat / 256 % 16 := by
  simp [fieldX, Nat.shiftRight_eq_div_pow]

theorem fieldY_val (w : Word) : (fieldY w).val = w.toNat / 16 % 16 := by
  simp [fieldY, Nat.shiftRight_eq_div_pow]

theorem fieldN_toNat (w : Word) : (fieldN w).toNat = w.toNat % 16 := by
  simp [fieldN, BitVec.extractLsb'_toNat]

theorem fieldNN_toNat (w : Word) : (fieldNN w).toNat = w.toNat % 256 := by
  simp [fieldNN, BitVec.extractLsb'_toNat]

theorem fieldNNN_toNat (w : Word) : (fieldNNN w).toNat = w.toNat % 4096 := by
  simp [fieldNNN, BitVec.extractLsb'_toNat]

/-! ### Formats -/

@[simp] theorem regBits_toNat (r : Reg) : (regBits r).toNat = r.val := rfl

theorem append_toNat {m n : Nat} (a : BitVec m) (b : BitVec n) : (a ++ b).toNat = a.toNat * 2 ^ n + b.toNat := by
  rw [BitVec.toNat_append, ← Nat.shiftLeft_add_eq_or_of_lt b.isLt, Nat.shiftLeft_eq]

theorem formatNNN_toNat (op : BitVec 4) (nnn : Addr12) : (formatNNN op nnn).toNat = op.toNat * 4096 + nnn.toNat := by
  rw [formatNNN, append_toNat]; norm_num

theorem formatXNN_toNat (op : BitVec 4) (x : Reg) (nn : Byte) :
    (formatXNN op x nn).toNat = op.toNat * 4096 + x.val * 256 + nn.toNat := by
  rw [formatXNN, append_toNat, append_toNat, regBits_toNat]
  omega

theorem formatXYN_toNat (op : BitVec 4) (x y : Reg) (n : Nibble) :
    (formatXYN op x y n).toNat = op.toNat * 4096 + x.val * 256 + y.val * 16 + n.toNat := by
  rw [formatXYN, append_toNat, append_toNat, append_toNat, regBits_toNat, regBits_toNat]
  omega

/-! ### Fields of a format -/

@[simp] theorem topNibble_formatNNN (op : BitVec 4) (nnn : Addr12) : topNibble (formatNNN op nnn) = op.toNat := by
  have := nnn.isLt
  rw [topNibble_eq, formatNNN_toNat]; omega

@[simp] theorem topNibble_formatXNN (op : BitVec 4) (x : Reg) (nn : Byte) : topNibble (formatXNN op x nn) = op.toNat := by
  have := nn.isLt; have := x.isLt
  rw [topNibble_eq, formatXNN_toNat]; omega

@[simp] theorem topNibble_formatXYN (op : BitVec 4) (x y : Reg) (n : Nibble) :
    topNibble (formatXYN op x y n) = op.toNat := by
  have := n.isLt; have := x.isLt; have := y.isLt
  rw [topNibble_eq, formatXYN_toNat]; omega

@[simp] theorem fieldNNN_formatNNN (op : BitVec 4) (nnn : Addr12) : fieldNNN (formatNNN op nnn) = nnn := by
  have := nnn.isLt
  apply BitVec.eq_of_toNat_eq
  rw [fieldNNN_toNat, formatNNN_toNat]; omega

@[simp] theorem fieldX_formatXNN (op : BitVec 4) (x : Reg) (nn : Byte) : fieldX (formatXNN op x nn) = x := by
  have := nn.isLt; have := x.isLt
  apply Fin.ext
  rw [fieldX_val, formatXNN_toNat]; omega

@[simp] theorem fieldNN_formatXNN (op : BitVec 4) (x : Reg) (nn : Byte) : fieldNN (formatXNN op x nn) = nn := by
  have := nn.isLt
  apply BitVec.eq_of_toNat_eq
  rw [fieldNN_toNat, formatXNN_toNat]; omega

@[simp] theorem fieldX_formatXYN (op : BitVec 4) (x y : Reg) (n : Nibble) : fieldX (formatXYN op x y n) = x := by
  have := n.isLt; have := x.isLt; have := y.isLt
  apply Fin.ext
  rw [fieldX_val, formatXYN_toNat]; omega

@[simp] theorem fieldY_formatXYN (op : BitVec 4) (x y : Reg) (n : Nibble) : fieldY (formatXYN op x y n) = y := by
  have := n.isLt; have := y.isLt
  apply Fin.ext
  rw [fieldY_val, formatXYN_toNat]; omega

@[simp] theorem fieldN_formatXYN (op : BitVec 4) (x y : Reg) (n : Nibble) : fieldN (formatXYN op x y n) = n := by
  have := n.isLt
  apply BitVec.eq_of_toNat_eq
  rw [fieldN_toNat, formatXYN_toNat]; omega

/-! ### Bytes of a word -/

/-- Cutting a word into bytes and joining them gives it back (R39). -/
@[simp] theorem wordOfBytes_bytes (w : Word) : wordOfBytes (highByte w) (lowByte w) = w := by
  have := w.isLt
  apply BitVec.eq_of_toNat_eq
  rw [wordOfBytes, append_toNat]
  simp only [highByte, lowByte, BitVec.extractLsb'_toNat, Nat.shiftRight_eq_div_pow]
  omega

/-- What decoding a byte sequence can do. -/
theorem decode_cases (hi lo : Byte) (rest : List Byte) :
    (∃ i, decodeWord (wordOfBytes hi lo) = some i ∧ decode (hi :: lo :: rest) = .ok (i, rest)) ∨
    (decodeWord (wordOfBytes hi lo) = none ∧
      decode (hi :: lo :: rest) = .error (.unknownOpcode (wordOfBytes hi lo))) := by
  cases h : decodeWord (wordOfBytes hi lo) with
  | some i => exact .inl ⟨i, rfl, by simp [decode, h]⟩
  | none => exact .inr ⟨rfl, by simp [decode, h]⟩

end Sys2Proof.Laws
end

