-- ==== Sys2Proof/Laws/Memory.lean ====
section
/-! SUPPORT. The laws of memory: read after write, and that every memory operation keeps the canonical form. -/

namespace Sys2Proof.Laws

open Sys2Proof.Machine

/-- The canonical form from a later address on is one from an earlier address on. -/
theorem wfFrom_mono {lo lo' : Nat} (h : lo' ≤ lo) {m : Memory} (hm : Memory.wfFrom lo m = true) :
    Memory.wfFrom lo' m = true := by
  cases m with
  | nil => rfl
  | cons c rest =>
    obtain ⟨a, b⟩ := c
    simp only [Memory.wfFrom, Bool.and_eq_true, decide_eq_true_eq] at hm ⊢
    exact ⟨⟨⟨by omega, hm.1.1.2⟩, hm.1.2⟩, hm.2⟩

/-- An address below every listed one reads as unlisted. -/
theorem read_below {lo a : Nat} (h : a < lo) {m : Memory} (hm : Memory.wfFrom lo m = true) :
    Memory.read m a = Memory.background a := by
  induction m generalizing lo with
  | nil => rfl
  | cons c rest ih =>
    obtain ⟨a', b⟩ := c
    simp only [Memory.wfFrom, Bool.and_eq_true, decide_eq_true_eq] at hm
    have : a' ≠ a := by omega
    simp only [Memory.read, this, if_false]
    exact ih (by omega) hm.2

/-- A write keeps the canonical form. -/
theorem wfFrom_write {lo a : Nat} {b : Byte} (hlo : lo ≤ a) (ha : a < Config.memSize) {m : Memory}
    (hm : Memory.wfFrom lo m = true) : Memory.wfFrom lo (Memory.write m a b) = true := by
  induction m generalizing lo with
  | nil =>
    simp only [Memory.write]
    split
    · rfl
    · simp [Memory.wfFrom, *]
  | cons c rest ih =>
    obtain ⟨a', b'⟩ := c
    have hc := hm
    simp only [Memory.wfFrom, Bool.and_eq_true, decide_eq_true_eq] at hc
    simp only [Memory.write]
    split_ifs with h1 h2 h3 h4
    · simp only [Memory.wfFrom, Bool.and_eq_true, decide_eq_true_eq]
      exact ⟨hc.1, ih (by omega) hc.2⟩
    · exact wfFrom_mono (by omega) hc.2
    · subst h2
      simp only [Memory.wfFrom, Bool.and_eq_true, decide_eq_true_eq]
      exact ⟨⟨⟨hlo, ha⟩, h3⟩, hc.2⟩
    · exact hm
    · simp only [Memory.wfFrom, Bool.and_eq_true, decide_eq_true_eq]
      exact ⟨⟨⟨hlo, ha⟩, h4⟩, ⟨⟨⟨by omega, hc.1.1.2⟩, hc.1.2⟩, hc.2⟩⟩

theorem wf_write {a : Nat} {b : Byte} (ha : a < Config.memSize) {m : Memory} (hm : Memory.wf m = true) :
    Memory.wf (Memory.write m a b) = true := wfFrom_write (Nat.zero_le _) ha hm

/-- A byte write changes the byte written and no other. -/
theorem read_write {m : Memory} (hm : Memory.wf m = true) (a a' : Nat) (b : Byte) :
    Memory.read (Memory.write m a b) a' = if a' = a then b else Memory.read m a' := by
  suffices h : ∀ lo, Memory.wfFrom lo m = true →
      Memory.read (Memory.write m a b) a' = if a' = a then b else Memory.read m a' from h 0 hm
  clear hm
  induction m with
  | nil =>
    intro lo _
    by_cases hb : b = Memory.background a <;> by_cases ha : a' = a <;>
      simp [Memory.write, Memory.read, hb, ha]
    intro h
    exact absurd h.symm ha
  | cons c rest ih =>
    intro lo hm
    obtain ⟨a₁, b₁⟩ := c
    have hc := hm
    simp only [Memory.wfFrom, Bool.and_eq_true, decide_eq_true_eq] at hc
    rcases Nat.lt_trichotomy a₁ a with h1 | h1 | h1
    · simp only [Memory.write, h1, if_true, Memory.read, ih _ hc.2]
      by_cases h : a₁ = a'
      · simp [h, show a' ≠ a by omega]
      · simp [h]
    · subst h1
      by_cases hb : b = Memory.background a₁
      · simp only [Memory.write, Nat.lt_irrefl, if_false, if_true, hb, Memory.read]
        by_cases h : a' = a₁
        · subst h
          simp [read_below (Nat.lt_succ_self _) hc.2]
        · simp [h, Ne.symm h]
      · simp only [Memory.write, Nat.lt_irrefl, if_false, if_true, hb, Memory.read]
        by_cases h : a' = a₁
        · simp [h]
        · simp [h, Ne.symm h]
    · have h2 : ¬ a₁ < a := by omega
      have h3 : ¬ a₁ = a := by omega
      by_cases hb : b = Memory.background a
      · simp only [Memory.write, h2, h3, if_false, hb, if_true, Memory.read]
        by_cases h : a' = a
        · subst h
          simp [h3, read_below (show a' < a₁ + 1 by omega) hc.2]
        · simp [h]
      · simp only [Memory.write, h2, h3, if_false, hb, Memory.read]
        by_cases h : a' = a
        · simp [h]
        · simp [h, Ne.symm h]

/-- Writing a run of bytes keeps the canonical form. -/
theorem wf_writeBytes {bytes : List Byte} : ∀ {a : Nat} {m : Memory}, a + bytes.length ≤ Config.memSize →
    Memory.wf m = true → Memory.wf (Memory.writeBytes m a bytes) = true := by
  induction bytes with
  | nil => intro a m _ hm; exact hm
  | cons b bs ih =>
    intro a m h hm
    simp only [List.length_cons] at h
    exact ih (by omega) (wf_write (by omega) hm)

/-- Writing a run of bytes changes those bytes and no other. -/
theorem read_writeBytes {bytes : List Byte} : ∀ {a : Nat} {m : Memory}, a + bytes.length ≤ Config.memSize →
    Memory.wf m = true → ∀ a', Memory.read (Memory.writeBytes m a bytes) a' =
      if a ≤ a' ∧ a' < a + bytes.length then bytes.getD (a' - a) 0#8 else Memory.read m a' := by
  induction bytes with
  | nil =>
    intro a m _ _ a'
    have : ¬ (a ≤ a' ∧ a' < a + ([] : List Byte).length) := by simp
    rw [if_neg this]; rfl
  | cons b bs ih =>
    intro a m h hm a'
    simp only [List.length_cons] at h
    rw [Memory.writeBytes, ih (by omega) (wf_write (by omega) hm), read_write hm]
    simp only [List.length_cons]
    by_cases h1 : a' = a
    · subst h1
      rw [if_neg (by omega), if_pos rfl, if_pos (by omega)]
      simp
    · by_cases h2 : a + 1 ≤ a' ∧ a' < a + 1 + bs.length
      · rw [if_pos h2, if_pos (by omega)]
        obtain ⟨k, hk⟩ : ∃ k, a' - a = k + 1 := ⟨a' - a - 1, by omega⟩
        rw [hk, show a' - (a + 1) = k by omega, List.getD_cons_succ]
      · rw [if_neg h2, if_neg h1, if_neg (by omega)]

@[simp] theorem length_readBytes (m : Memory) (a n : Nat) : (Memory.readBytes m a n).length = n := by
  induction n generalizing a with
  | zero => rfl
  | succ n ih => simp [Memory.readBytes, ih]

/-- Byte `k` of a run read is the byte at that address. -/
theorem readBytes_getD (m : Memory) (d : Byte) (n k a : Nat) :
    (Memory.readBytes m a n).getD k d = if k < n then Memory.read m (a + k) else d := by
  induction n generalizing a k with
  | zero => simp [Memory.readBytes]
  | succ n ih =>
    cases k with
    | zero => simp [Memory.readBytes]
    | succ k =>
      rw [Memory.readBytes, List.getD_cons_succ, ih]
      simp only [Nat.add_lt_add_iff_right]
      congr 2
      omega

/-- What a read can do: it answers the bytes, or the transfer would pass the end of memory (R43). -/
theorem memRead_cases (s : State) (a n : Nat) :
    (a + n ≤ 4096 ∧ s.memRead a n = some (Memory.readBytes s.mem a n)) ∨
    (4096 < a + n ∧ s.memRead a n = none) := by
  unfold State.memRead inBounds Config.memSize
  by_cases h : a + n ≤ 4096
  · exact .inl ⟨h, by simp [h]⟩
  · exact .inr ⟨by omega, by simp [h]⟩

/-- What a write can do: it writes the bytes, or the transfer would pass the end of memory and nothing is written
(R43). -/
theorem memWrite_cases (s : State) (a : Nat) (bytes : List Byte) :
    (a + bytes.length ≤ 4096 ∧ s.memWrite a bytes = some { s with mem := Memory.writeBytes s.mem a bytes }) ∨
    (4096 < a + bytes.length ∧ s.memWrite a bytes = none) := by
  unfold State.memWrite inBounds Config.memSize
  by_cases h : a + bytes.length ≤ 4096
  · exact .inl ⟨h, by simp [h]⟩
  · exact .inr ⟨by omega, by simp [h]⟩

/-- The memory after reset is canonical. -/
theorem wf_reset : Memory.wf State.reset.mem = true := rfl

/-- The image as loaded stays inside memory (R169). -/
theorem loadBase_add_length_le (rom : List Byte) :
    Config.loadBase + (rom.take Config.romMax).length ≤ Config.memSize := by
  simp [Config.loadBase, Config.romMax, Config.memSize, List.length_take]
  omega

/-- Loading an image leaves memory canonical. -/
theorem wf_loadImage (rom : List Byte) : Memory.wf (loadImage rom) = true :=
  wf_writeBytes (loadBase_add_length_le rom) rfl

end Sys2Proof.Laws
end

