-- ==== Sys2Proof/Laws/State.lean ====
section
/-! SUPPORT. One lemma for each field and each update of the state, true by unfolding, and what each update leaves in each
register. -/

namespace Sys2Proof.Laws

open Sys2Proof.Machine

/-! ### `setReg` -/

@[simp] theorem setReg_v (r : Reg) (b : Byte) (s : State) : (s.setReg r b).v = s.v.set r.val b := rfl
@[simp] theorem setReg_i (r : Reg) (b : Byte) (s : State) : (s.setReg r b).i = s.i := rfl
@[simp] theorem setReg_pc (r : Reg) (b : Byte) (s : State) : (s.setReg r b).pc = s.pc := rfl
@[simp] theorem setReg_stack (r : Reg) (b : Byte) (s : State) : (s.setReg r b).stack = s.stack := rfl
@[simp] theorem setReg_dt (r : Reg) (b : Byte) (s : State) : (s.setReg r b).dt = s.dt := rfl
@[simp] theorem setReg_st (r : Reg) (b : Byte) (s : State) : (s.setReg r b).st = s.st := rfl
@[simp] theorem setReg_mem (r : Reg) (b : Byte) (s : State) : (s.setReg r b).mem = s.mem := rfl
@[simp] theorem setReg_fb (r : Reg) (b : Byte) (s : State) : (s.setReg r b).fb = s.fb := rfl
@[simp] theorem setReg_key (r : Reg) (b : Byte) (s : State) : (s.setReg r b).key = s.key := rfl
@[simp] theorem setReg_ms (r : Reg) (b : Byte) (s : State) : (s.setReg r b).ms = s.ms := rfl
@[simp] theorem setReg_run (r : Reg) (b : Byte) (s : State) : (s.setReg r b).run = s.run := rfl
@[simp] theorem setReg_gateCpu (r : Reg) (b : Byte) (s : State) : (s.setReg r b).gateCpu = s.gateCpu := rfl
@[simp] theorem setReg_gate60 (r : Reg) (b : Byte) (s : State) : (s.setReg r b).gate60 = s.gate60 := rfl
@[simp] theorem setReg_clock (r : Reg) (b : Byte) (s : State) : (s.setReg r b).clock = s.clock := rfl
@[simp] theorem setReg_out (r : Reg) (b : Byte) (s : State) : (s.setReg r b).out = s.out := rfl
@[simp] theorem setReg_inputs (r : Reg) (b : Byte) (s : State) : (s.setReg r b).inputs = s.inputs := rfl
@[simp] theorem setReg_frame (r : Reg) (b : Byte) (s : State) : (s.setReg r b).frame = s.frame := rfl

/-! ### `setI` -/

@[simp] theorem setI_v (w : Word) (s : State) : (s.setI w).v = s.v := rfl
@[simp] theorem setI_i (w : Word) (s : State) : (s.setI w).i = w := rfl
@[simp] theorem setI_pc (w : Word) (s : State) : (s.setI w).pc = s.pc := rfl
@[simp] theorem setI_stack (w : Word) (s : State) : (s.setI w).stack = s.stack := rfl
@[simp] theorem setI_dt (w : Word) (s : State) : (s.setI w).dt = s.dt := rfl
@[simp] theorem setI_st (w : Word) (s : State) : (s.setI w).st = s.st := rfl
@[simp] theorem setI_mem (w : Word) (s : State) : (s.setI w).mem = s.mem := rfl
@[simp] theorem setI_fb (w : Word) (s : State) : (s.setI w).fb = s.fb := rfl
@[simp] theorem setI_key (w : Word) (s : State) : (s.setI w).key = s.key := rfl
@[simp] theorem setI_ms (w : Word) (s : State) : (s.setI w).ms = s.ms := rfl
@[simp] theorem setI_run (w : Word) (s : State) : (s.setI w).run = s.run := rfl
@[simp] theorem setI_gateCpu (w : Word) (s : State) : (s.setI w).gateCpu = s.gateCpu := rfl
@[simp] theorem setI_gate60 (w : Word) (s : State) : (s.setI w).gate60 = s.gate60 := rfl
@[simp] theorem setI_clock (w : Word) (s : State) : (s.setI w).clock = s.clock := rfl
@[simp] theorem setI_out (w : Word) (s : State) : (s.setI w).out = s.out := rfl
@[simp] theorem setI_inputs (w : Word) (s : State) : (s.setI w).inputs = s.inputs := rfl
@[simp] theorem setI_frame (w : Word) (s : State) : (s.setI w).frame = s.frame := rfl

/-! ### `setPc` -/

@[simp] theorem setPc_v (w : Word) (s : State) : (s.setPc w).v = s.v := rfl
@[simp] theorem setPc_i (w : Word) (s : State) : (s.setPc w).i = s.i := rfl
@[simp] theorem setPc_pc (w : Word) (s : State) : (s.setPc w).pc = w := rfl
@[simp] theorem setPc_stack (w : Word) (s : State) : (s.setPc w).stack = s.stack := rfl
@[simp] theorem setPc_dt (w : Word) (s : State) : (s.setPc w).dt = s.dt := rfl
@[simp] theorem setPc_st (w : Word) (s : State) : (s.setPc w).st = s.st := rfl
@[simp] theorem setPc_mem (w : Word) (s : State) : (s.setPc w).mem = s.mem := rfl
@[simp] theorem setPc_fb (w : Word) (s : State) : (s.setPc w).fb = s.fb := rfl
@[simp] theorem setPc_key (w : Word) (s : State) : (s.setPc w).key = s.key := rfl
@[simp] theorem setPc_ms (w : Word) (s : State) : (s.setPc w).ms = s.ms := rfl
@[simp] theorem setPc_run (w : Word) (s : State) : (s.setPc w).run = s.run := rfl
@[simp] theorem setPc_gateCpu (w : Word) (s : State) : (s.setPc w).gateCpu = s.gateCpu := rfl
@[simp] theorem setPc_gate60 (w : Word) (s : State) : (s.setPc w).gate60 = s.gate60 := rfl
@[simp] theorem setPc_clock (w : Word) (s : State) : (s.setPc w).clock = s.clock := rfl
@[simp] theorem setPc_out (w : Word) (s : State) : (s.setPc w).out = s.out := rfl
@[simp] theorem setPc_inputs (w : Word) (s : State) : (s.setPc w).inputs = s.inputs := rfl
@[simp] theorem setPc_frame (w : Word) (s : State) : (s.setPc w).frame = s.frame := rfl

/-! ### `advance` -/

@[simp] theorem advance_v (s : State) : (s.advance).v = s.v := rfl
@[simp] theorem advance_i (s : State) : (s.advance).i = s.i := rfl
@[simp] theorem advance_pc (s : State) : (s.advance).pc = s.pc + 2#16 := rfl
@[simp] theorem advance_stack (s : State) : (s.advance).stack = s.stack := rfl
@[simp] theorem advance_dt (s : State) : (s.advance).dt = s.dt := rfl
@[simp] theorem advance_st (s : State) : (s.advance).st = s.st := rfl
@[simp] theorem advance_mem (s : State) : (s.advance).mem = s.mem := rfl
@[simp] theorem advance_fb (s : State) : (s.advance).fb = s.fb := rfl
@[simp] theorem advance_key (s : State) : (s.advance).key = s.key := rfl
@[simp] theorem advance_ms (s : State) : (s.advance).ms = s.ms := rfl
@[simp] theorem advance_run (s : State) : (s.advance).run = s.run := rfl
@[simp] theorem advance_gateCpu (s : State) : (s.advance).gateCpu = s.gateCpu := rfl
@[simp] theorem advance_gate60 (s : State) : (s.advance).gate60 = s.gate60 := rfl
@[simp] theorem advance_clock (s : State) : (s.advance).clock = s.clock := rfl
@[simp] theorem advance_out (s : State) : (s.advance).out = s.out := rfl
@[simp] theorem advance_inputs (s : State) : (s.advance).inputs = s.inputs := rfl
@[simp] theorem advance_frame (s : State) : (s.advance).frame = s.frame := rfl

/-! ### `skipIf` -/

@[simp] theorem skipIf_v (c : Bool) (s : State) : (s.skipIf c).v = s.v := rfl
@[simp] theorem skipIf_i (c : Bool) (s : State) : (s.skipIf c).i = s.i := rfl
@[simp] theorem skipIf_pc (c : Bool) (s : State) : (s.skipIf c).pc = s.pc + if c then 4#16 else 2#16 := rfl
@[simp] theorem skipIf_stack (c : Bool) (s : State) : (s.skipIf c).stack = s.stack := rfl
@[simp] theorem skipIf_dt (c : Bool) (s : State) : (s.skipIf c).dt = s.dt := rfl
@[simp] theorem skipIf_st (c : Bool) (s : State) : (s.skipIf c).st = s.st := rfl
@[simp] theorem skipIf_mem (c : Bool) (s : State) : (s.skipIf c).mem = s.mem := rfl
@[simp] theorem skipIf_fb (c : Bool) (s : State) : (s.skipIf c).fb = s.fb := rfl
@[simp] theorem skipIf_key (c : Bool) (s : State) : (s.skipIf c).key = s.key := rfl
@[simp] theorem skipIf_ms (c : Bool) (s : State) : (s.skipIf c).ms = s.ms := rfl
@[simp] theorem skipIf_run (c : Bool) (s : State) : (s.skipIf c).run = s.run := rfl
@[simp] theorem skipIf_gateCpu (c : Bool) (s : State) : (s.skipIf c).gateCpu = s.gateCpu := rfl
@[simp] theorem skipIf_gate60 (c : Bool) (s : State) : (s.skipIf c).gate60 = s.gate60 := rfl
@[simp] theorem skipIf_clock (c : Bool) (s : State) : (s.skipIf c).clock = s.clock := rfl
@[simp] theorem skipIf_out (c : Bool) (s : State) : (s.skipIf c).out = s.out := rfl
@[simp] theorem skipIf_inputs (c : Bool) (s : State) : (s.skipIf c).inputs = s.inputs := rfl
@[simp] theorem skipIf_frame (c : Bool) (s : State) : (s.skipIf c).frame = s.frame := rfl

/-! ### `raise` -/

@[simp] theorem raise_v (c : Fault) (s : State) : (s.raise c).v = s.v := rfl
@[simp] theorem raise_i (c : Fault) (s : State) : (s.raise c).i = s.i := rfl
@[simp] theorem raise_pc (c : Fault) (s : State) : (s.raise c).pc = s.pc := rfl
@[simp] theorem raise_stack (c : Fault) (s : State) : (s.raise c).stack = s.stack := rfl
@[simp] theorem raise_dt (c : Fault) (s : State) : (s.raise c).dt = s.dt := rfl
@[simp] theorem raise_st (c : Fault) (s : State) : (s.raise c).st = s.st := rfl
@[simp] theorem raise_mem (c : Fault) (s : State) : (s.raise c).mem = s.mem := rfl
@[simp] theorem raise_fb (c : Fault) (s : State) : (s.raise c).fb = s.fb := rfl
@[simp] theorem raise_key (c : Fault) (s : State) : (s.raise c).key = s.key := rfl
@[simp] theorem raise_ms (c : Fault) (s : State) : (s.raise c).ms = s.ms := rfl
@[simp] theorem raise_run (c : Fault) (s : State) : (s.raise c).run = .faulted c := rfl
@[simp] theorem raise_gateCpu (c : Fault) (s : State) : (s.raise c).gateCpu = s.gateCpu := rfl
@[simp] theorem raise_gate60 (c : Fault) (s : State) : (s.raise c).gate60 = s.gate60 := rfl
@[simp] theorem raise_clock (c : Fault) (s : State) : (s.raise c).clock = s.clock := rfl
@[simp] theorem raise_out (c : Fault) (s : State) : (s.raise c).out = s.out := rfl
@[simp] theorem raise_inputs (c : Fault) (s : State) : (s.raise c).inputs = s.inputs := rfl
@[simp] theorem raise_frame (c : Fault) (s : State) : (s.raise c).frame = s.frame := rfl

/-! ### `raiseDecode` -/

@[simp] theorem raiseDecode_v (c : Fault) (s : State) : (s.raiseDecode c).v = s.v := rfl
@[simp] theorem raiseDecode_i (c : Fault) (s : State) : (s.raiseDecode c).i = s.i := rfl
@[simp] theorem raiseDecode_pc (c : Fault) (s : State) : (s.raiseDecode c).pc = s.pc := rfl
@[simp] theorem raiseDecode_stack (c : Fault) (s : State) : (s.raiseDecode c).stack = s.stack := rfl
@[simp] theorem raiseDecode_dt (c : Fault) (s : State) : (s.raiseDecode c).dt = s.dt := rfl
@[simp] theorem raiseDecode_st (c : Fault) (s : State) : (s.raiseDecode c).st = s.st := rfl
@[simp] theorem raiseDecode_mem (c : Fault) (s : State) : (s.raiseDecode c).mem = s.mem := rfl
@[simp] theorem raiseDecode_fb (c : Fault) (s : State) : (s.raiseDecode c).fb = s.fb := rfl
@[simp] theorem raiseDecode_key (c : Fault) (s : State) : (s.raiseDecode c).key = s.key := rfl
@[simp] theorem raiseDecode_ms (c : Fault) (s : State) : (s.raiseDecode c).ms = s.ms := rfl
@[simp] theorem raiseDecode_run (c : Fault) (s : State) : (s.raiseDecode c).run = .faulted c := rfl
@[simp] theorem raiseDecode_gateCpu (c : Fault) (s : State) : (s.raiseDecode c).gateCpu = s.gateCpu := rfl
@[simp] theorem raiseDecode_gate60 (c : Fault) (s : State) : (s.raiseDecode c).gate60 = s.gate60 := rfl
@[simp] theorem raiseDecode_clock (c : Fault) (s : State) : (s.raiseDecode c).clock = s.clock := rfl
@[simp] theorem raiseDecode_out (c : Fault) (s : State) : (s.raiseDecode c).out = { s.out with dump := some s.dump } := rfl
@[simp] theorem raiseDecode_inputs (c : Fault) (s : State) : (s.raiseDecode c).inputs = s.inputs := rfl
@[simp] theorem raiseDecode_frame (c : Fault) (s : State) : (s.raiseDecode c).frame = s.frame := rfl

/-! ### `push` -/

@[simp] theorem push_v (w : Word) (s : State) : (s.push w).v = s.v := rfl
@[simp] theorem push_i (w : Word) (s : State) : (s.push w).i = s.i := rfl
@[simp] theorem push_pc (w : Word) (s : State) : (s.push w).pc = s.pc := rfl
@[simp] theorem push_stack (w : Word) (s : State) : (s.push w).stack = w :: s.stack := rfl
@[simp] theorem push_dt (w : Word) (s : State) : (s.push w).dt = s.dt := rfl
@[simp] theorem push_st (w : Word) (s : State) : (s.push w).st = s.st := rfl
@[simp] theorem push_mem (w : Word) (s : State) : (s.push w).mem = s.mem := rfl
@[simp] theorem push_fb (w : Word) (s : State) : (s.push w).fb = s.fb := rfl
@[simp] theorem push_key (w : Word) (s : State) : (s.push w).key = s.key := rfl
@[simp] theorem push_ms (w : Word) (s : State) : (s.push w).ms = s.ms := rfl
@[simp] theorem push_run (w : Word) (s : State) : (s.push w).run = s.run := rfl
@[simp] theorem push_gateCpu (w : Word) (s : State) : (s.push w).gateCpu = s.gateCpu := rfl
@[simp] theorem push_gate60 (w : Word) (s : State) : (s.push w).gate60 = s.gate60 := rfl
@[simp] theorem push_clock (w : Word) (s : State) : (s.push w).clock = s.clock := rfl
@[simp] theorem push_out (w : Word) (s : State) : (s.push w).out = s.out := rfl
@[simp] theorem push_inputs (w : Word) (s : State) : (s.push w).inputs = s.inputs := rfl
@[simp] theorem push_frame (w : Word) (s : State) : (s.push w).frame = s.frame := rfl

/-! ### `setFlag` -/

@[simp] theorem setFlag_v (c : Bool) (s : State) : (s.setFlag c).v = s.v.set vf.val (flagByte c) := rfl
@[simp] theorem setFlag_i (c : Bool) (s : State) : (s.setFlag c).i = s.i := rfl
@[simp] theorem setFlag_pc (c : Bool) (s : State) : (s.setFlag c).pc = s.pc := rfl
@[simp] theorem setFlag_stack (c : Bool) (s : State) : (s.setFlag c).stack = s.stack := rfl
@[simp] theorem setFlag_dt (c : Bool) (s : State) : (s.setFlag c).dt = s.dt := rfl
@[simp] theorem setFlag_st (c : Bool) (s : State) : (s.setFlag c).st = s.st := rfl
@[simp] theorem setFlag_mem (c : Bool) (s : State) : (s.setFlag c).mem = s.mem := rfl
@[simp] theorem setFlag_fb (c : Bool) (s : State) : (s.setFlag c).fb = s.fb := rfl
@[simp] theorem setFlag_key (c : Bool) (s : State) : (s.setFlag c).key = s.key := rfl
@[simp] theorem setFlag_ms (c : Bool) (s : State) : (s.setFlag c).ms = s.ms := rfl
@[simp] theorem setFlag_run (c : Bool) (s : State) : (s.setFlag c).run = s.run := rfl
@[simp] theorem setFlag_gateCpu (c : Bool) (s : State) : (s.setFlag c).gateCpu = s.gateCpu := rfl
@[simp] theorem setFlag_gate60 (c : Bool) (s : State) : (s.setFlag c).gate60 = s.gate60 := rfl
@[simp] theorem setFlag_clock (c : Bool) (s : State) : (s.setFlag c).clock = s.clock := rfl
@[simp] theorem setFlag_out (c : Bool) (s : State) : (s.setFlag c).out = s.out := rfl
@[simp] theorem setFlag_inputs (c : Bool) (s : State) : (s.setFlag c).inputs = s.inputs := rfl
@[simp] theorem setFlag_frame (c : Bool) (s : State) : (s.setFlag c).frame = s.frame := rfl

/-! ### `setRegAndFlag` -/

@[simp] theorem setRegAndFlag_v (x : Reg) (b : Byte) (c : Bool) (s : State) : (s.setRegAndFlag x b c).v = (s.v.set x.val b).set vf.val (flagByte c) := rfl
@[simp] theorem setRegAndFlag_i (x : Reg) (b : Byte) (c : Bool) (s : State) : (s.setRegAndFlag x b c).i = s.i := rfl
@[simp] theorem setRegAndFlag_pc (x : Reg) (b : Byte) (c : Bool) (s : State) : (s.setRegAndFlag x b c).pc = s.pc := rfl
@[simp] theorem setRegAndFlag_stack (x : Reg) (b : Byte) (c : Bool) (s : State) : (s.setRegAndFlag x b c).stack = s.stack := rfl
@[simp] theorem setRegAndFlag_dt (x : Reg) (b : Byte) (c : Bool) (s : State) : (s.setRegAndFlag x b c).dt = s.dt := rfl
@[simp] theorem setRegAndFlag_st (x : Reg) (b : Byte) (c : Bool) (s : State) : (s.setRegAndFlag x b c).st = s.st := rfl
@[simp] theorem setRegAndFlag_mem (x : Reg) (b : Byte) (c : Bool) (s : State) : (s.setRegAndFlag x b c).mem = s.mem := rfl
@[simp] theorem setRegAndFlag_fb (x : Reg) (b : Byte) (c : Bool) (s : State) : (s.setRegAndFlag x b c).fb = s.fb := rfl
@[simp] theorem setRegAndFlag_key (x : Reg) (b : Byte) (c : Bool) (s : State) : (s.setRegAndFlag x b c).key = s.key := rfl
@[simp] theorem setRegAndFlag_ms (x : Reg) (b : Byte) (c : Bool) (s : State) : (s.setRegAndFlag x b c).ms = s.ms := rfl
@[simp] theorem setRegAndFlag_run (x : Reg) (b : Byte) (c : Bool) (s : State) : (s.setRegAndFlag x b c).run = s.run := rfl
@[simp] theorem setRegAndFlag_gateCpu (x : Reg) (b : Byte) (c : Bool) (s : State) : (s.setRegAndFlag x b c).gateCpu = s.gateCpu := rfl
@[simp] theorem setRegAndFlag_gate60 (x : Reg) (b : Byte) (c : Bool) (s : State) : (s.setRegAndFlag x b c).gate60 = s.gate60 := rfl
@[simp] theorem setRegAndFlag_clock (x : Reg) (b : Byte) (c : Bool) (s : State) : (s.setRegAndFlag x b c).clock = s.clock := rfl
@[simp] theorem setRegAndFlag_out (x : Reg) (b : Byte) (c : Bool) (s : State) : (s.setRegAndFlag x b c).out = s.out := rfl
@[simp] theorem setRegAndFlag_inputs (x : Reg) (b : Byte) (c : Bool) (s : State) : (s.setRegAndFlag x b c).inputs = s.inputs := rfl
@[simp] theorem setRegAndFlag_frame (x : Reg) (b : Byte) (c : Bool) (s : State) : (s.setRegAndFlag x b c).frame = s.frame := rfl

/-! ### `loadRegs` -/

@[simp] theorem loadRegs_i (bs : List Byte) (s : State) : (s.loadRegs bs).i = s.i := rfl
@[simp] theorem loadRegs_pc (bs : List Byte) (s : State) : (s.loadRegs bs).pc = s.pc := rfl
@[simp] theorem loadRegs_stack (bs : List Byte) (s : State) : (s.loadRegs bs).stack = s.stack := rfl
@[simp] theorem loadRegs_dt (bs : List Byte) (s : State) : (s.loadRegs bs).dt = s.dt := rfl
@[simp] theorem loadRegs_st (bs : List Byte) (s : State) : (s.loadRegs bs).st = s.st := rfl
@[simp] theorem loadRegs_mem (bs : List Byte) (s : State) : (s.loadRegs bs).mem = s.mem := rfl
@[simp] theorem loadRegs_fb (bs : List Byte) (s : State) : (s.loadRegs bs).fb = s.fb := rfl
@[simp] theorem loadRegs_key (bs : List Byte) (s : State) : (s.loadRegs bs).key = s.key := rfl
@[simp] theorem loadRegs_ms (bs : List Byte) (s : State) : (s.loadRegs bs).ms = s.ms := rfl
@[simp] theorem loadRegs_run (bs : List Byte) (s : State) : (s.loadRegs bs).run = s.run := rfl
@[simp] theorem loadRegs_gateCpu (bs : List Byte) (s : State) : (s.loadRegs bs).gateCpu = s.gateCpu := rfl
@[simp] theorem loadRegs_gate60 (bs : List Byte) (s : State) : (s.loadRegs bs).gate60 = s.gate60 := rfl
@[simp] theorem loadRegs_clock (bs : List Byte) (s : State) : (s.loadRegs bs).clock = s.clock := rfl
@[simp] theorem loadRegs_out (bs : List Byte) (s : State) : (s.loadRegs bs).out = s.out := rfl
@[simp] theorem loadRegs_inputs (bs : List Byte) (s : State) : (s.loadRegs bs).inputs = s.inputs := rfl
@[simp] theorem loadRegs_frame (bs : List Byte) (s : State) : (s.loadRegs bs).frame = s.frame := rfl

/-! ### `emit` -/

@[simp] theorem emit_v (es : List RenderEvent) (s : State) : (s.emit es).v = s.v := rfl
@[simp] theorem emit_i (es : List RenderEvent) (s : State) : (s.emit es).i = s.i := rfl
@[simp] theorem emit_pc (es : List RenderEvent) (s : State) : (s.emit es).pc = s.pc := rfl
@[simp] theorem emit_stack (es : List RenderEvent) (s : State) : (s.emit es).stack = s.stack := rfl
@[simp] theorem emit_dt (es : List RenderEvent) (s : State) : (s.emit es).dt = s.dt := rfl
@[simp] theorem emit_st (es : List RenderEvent) (s : State) : (s.emit es).st = s.st := rfl
@[simp] theorem emit_mem (es : List RenderEvent) (s : State) : (s.emit es).mem = s.mem := rfl
@[simp] theorem emit_fb (es : List RenderEvent) (s : State) : (s.emit es).fb = s.fb := rfl
@[simp] theorem emit_key (es : List RenderEvent) (s : State) : (s.emit es).key = s.key := rfl
@[simp] theorem emit_ms (es : List RenderEvent) (s : State) : (s.emit es).ms = s.ms := rfl
@[simp] theorem emit_run (es : List RenderEvent) (s : State) : (s.emit es).run = s.run := rfl
@[simp] theorem emit_gateCpu (es : List RenderEvent) (s : State) : (s.emit es).gateCpu = s.gateCpu := rfl
@[simp] theorem emit_gate60 (es : List RenderEvent) (s : State) : (s.emit es).gate60 = s.gate60 := rfl
@[simp] theorem emit_clock (es : List RenderEvent) (s : State) : (s.emit es).clock = s.clock := rfl
@[simp] theorem emit_out (es : List RenderEvent) (s : State) : (s.emit es).out = { s.out with render := s.out.render ++ es } := rfl
@[simp] theorem emit_inputs (es : List RenderEvent) (s : State) : (s.emit es).inputs = s.inputs := rfl
@[simp] theorem emit_frame (es : List RenderEvent) (s : State) : (s.emit es).frame = s.frame := rfl

/-! ### `clearDisplay` -/

@[simp] theorem clearDisplay_v (s : State) : (s.clearDisplay).v = s.v := rfl
@[simp] theorem clearDisplay_i (s : State) : (s.clearDisplay).i = s.i := rfl
@[simp] theorem clearDisplay_pc (s : State) : (s.clearDisplay).pc = s.pc := rfl
@[simp] theorem clearDisplay_stack (s : State) : (s.clearDisplay).stack = s.stack := rfl
@[simp] theorem clearDisplay_dt (s : State) : (s.clearDisplay).dt = s.dt := rfl
@[simp] theorem clearDisplay_st (s : State) : (s.clearDisplay).st = s.st := rfl
@[simp] theorem clearDisplay_mem (s : State) : (s.clearDisplay).mem = s.mem := rfl
@[simp] theorem clearDisplay_fb (s : State) : (s.clearDisplay).fb = FrameBuffer.cleared := rfl
@[simp] theorem clearDisplay_key (s : State) : (s.clearDisplay).key = s.key := rfl
@[simp] theorem clearDisplay_ms (s : State) : (s.clearDisplay).ms = s.ms := rfl
@[simp] theorem clearDisplay_run (s : State) : (s.clearDisplay).run = s.run := rfl
@[simp] theorem clearDisplay_gateCpu (s : State) : (s.clearDisplay).gateCpu = s.gateCpu := rfl
@[simp] theorem clearDisplay_gate60 (s : State) : (s.clearDisplay).gate60 = s.gate60 := rfl
@[simp] theorem clearDisplay_clock (s : State) : (s.clearDisplay).clock = s.clock := rfl
@[simp] theorem clearDisplay_out (s : State) : (s.clearDisplay).out = { s.out with render := s.out.render ++ [.clear] } := rfl
@[simp] theorem clearDisplay_inputs (s : State) : (s.clearDisplay).inputs = s.inputs := rfl
@[simp] theorem clearDisplay_frame (s : State) : (s.clearDisplay).frame = s.frame := rfl

/-! ### `drawSprite` -/

@[simp] theorem drawSprite_v (x0 y0 : Byte) (sp : List Byte) (s : State) : (s.drawSprite x0 y0 sp).v = s.v.set vf.val (flagByte (xorDraw s.fb x0 y0 sp).anyErased) := rfl
@[simp] theorem drawSprite_i (x0 y0 : Byte) (sp : List Byte) (s : State) : (s.drawSprite x0 y0 sp).i = s.i := rfl
@[simp] theorem drawSprite_pc (x0 y0 : Byte) (sp : List Byte) (s : State) : (s.drawSprite x0 y0 sp).pc = s.pc := rfl
@[simp] theorem drawSprite_stack (x0 y0 : Byte) (sp : List Byte) (s : State) : (s.drawSprite x0 y0 sp).stack = s.stack := rfl
@[simp] theorem drawSprite_dt (x0 y0 : Byte) (sp : List Byte) (s : State) : (s.drawSprite x0 y0 sp).dt = s.dt := rfl
@[simp] theorem drawSprite_st (x0 y0 : Byte) (sp : List Byte) (s : State) : (s.drawSprite x0 y0 sp).st = s.st := rfl
@[simp] theorem drawSprite_mem (x0 y0 : Byte) (sp : List Byte) (s : State) : (s.drawSprite x0 y0 sp).mem = s.mem := rfl
@[simp] theorem drawSprite_fb (x0 y0 : Byte) (sp : List Byte) (s : State) : (s.drawSprite x0 y0 sp).fb = (xorDraw s.fb x0 y0 sp).fb := rfl
@[simp] theorem drawSprite_key (x0 y0 : Byte) (sp : List Byte) (s : State) : (s.drawSprite x0 y0 sp).key = s.key := rfl
@[simp] theorem drawSprite_ms (x0 y0 : Byte) (sp : List Byte) (s : State) : (s.drawSprite x0 y0 sp).ms = s.ms := rfl
@[simp] theorem drawSprite_run (x0 y0 : Byte) (sp : List Byte) (s : State) : (s.drawSprite x0 y0 sp).run = s.run := rfl
@[simp] theorem drawSprite_gateCpu (x0 y0 : Byte) (sp : List Byte) (s : State) : (s.drawSprite x0 y0 sp).gateCpu = s.gateCpu := rfl
@[simp] theorem drawSprite_gate60 (x0 y0 : Byte) (sp : List Byte) (s : State) : (s.drawSprite x0 y0 sp).gate60 = s.gate60 := rfl
@[simp] theorem drawSprite_clock (x0 y0 : Byte) (sp : List Byte) (s : State) : (s.drawSprite x0 y0 sp).clock = s.clock := rfl
@[simp] theorem drawSprite_out (x0 y0 : Byte) (sp : List Byte) (s : State) : (s.drawSprite x0 y0 sp).out = { s.out with render := s.out.render ++ (xorDraw s.fb x0 y0 sp).events } := rfl
@[simp] theorem drawSprite_inputs (x0 y0 : Byte) (sp : List Byte) (s : State) : (s.drawSprite x0 y0 sp).inputs = s.inputs := rfl
@[simp] theorem drawSprite_frame (x0 y0 : Byte) (sp : List Byte) (s : State) : (s.drawSprite x0 y0 sp).frame = s.frame := rfl

/-! ### Reading registers -/

@[simp] theorem setReg_reg_same (r : Reg) (b : Byte) (s : State) : (s.setReg r b).reg r = b := by
  simp [State.reg]

theorem setReg_reg_other {r r' : Reg} (h : r ≠ r') (b : Byte) (s : State) : (s.setReg r b).reg r' = s.reg r' := by
  have : r.val ≠ r'.val := fun e => h (Fin.ext e)
  simp [State.reg, Vector.getElem_set_ne _ _ this]

theorem setReg_reg (r r' : Reg) (b : Byte) (s : State) :
    (s.setReg r b).reg r' = if r = r' then b else s.reg r' := by
  by_cases h : r = r'
  · subst h; simp
  · simp [h, setReg_reg_other h]

@[simp] theorem setFlag_reg_vf (c : Bool) (s : State) : (s.setFlag c).reg vf = flagByte c := by
  simp [State.setFlag]

@[simp] theorem setRegAndFlag_reg_vf (x : Reg) (b : Byte) (c : Bool) (s : State) :
    (s.setRegAndFlag x b c).reg vf = flagByte c := by
  simp [State.setRegAndFlag]

theorem setRegAndFlag_reg {x : Reg} (h : x ≠ vf) (b : Byte) (c : Bool) (s : State) :
    (s.setRegAndFlag x b c).reg x = b := by
  rw [State.setRegAndFlag, State.setFlag, setReg_reg_other (Ne.symm h), setReg_reg_same]

theorem setRegAndFlag_reg_other {x r : Reg} (h : x ≠ r) (h' : r ≠ vf) (b : Byte) (c : Bool) (s : State) :
    (s.setRegAndFlag x b c).reg r = s.reg r := by
  rw [State.setRegAndFlag, State.setFlag, setReg_reg_other (Ne.symm h'), setReg_reg_other h]

/-- A bulk load writes `V[k]` for each byte there is and leaves the others (R103). -/
theorem loadRegs_reg (bs : List Byte) (s : State) (r : Reg) :
    (s.loadRegs bs).reg r = bs.getD r.val (s.reg r) := by
  simp [State.loadRegs, State.reg]

@[simp] theorem reg_setI (w : Word) (s : State) (r : Reg) : (s.setI w).reg r = s.reg r := rfl
@[simp] theorem reg_setPc (w : Word) (s : State) (r : Reg) : (s.setPc w).reg r = s.reg r := rfl
@[simp] theorem reg_advance (s : State) (r : Reg) : s.advance.reg r = s.reg r := rfl
@[simp] theorem reg_skipIf (c : Bool) (s : State) (r : Reg) : (s.skipIf c).reg r = s.reg r := rfl
@[simp] theorem reg_raise (c : Fault) (s : State) (r : Reg) : (s.raise c).reg r = s.reg r := rfl
@[simp] theorem reg_push (w : Word) (s : State) (r : Reg) : (s.push w).reg r = s.reg r := rfl
@[simp] theorem reg_emit (es : List RenderEvent) (s : State) (r : Reg) : (s.emit es).reg r = s.reg r := rfl

/-- The registers `V[0]` to `V[x]` are `x + 1` bytes (R102). -/
@[simp] theorem length_regsUpTo (s : State) (x : Reg) : (s.regsUpTo x).length = x.val + 1 := by
  have := x.isLt
  simp [State.regsUpTo, bulkCount]

/-- Byte `k` of the block `V[0]` to `V[x]` is `V[k]` (R102). -/
theorem regsUpTo_getElem (s : State) (x : Reg) (k : Nat) (h : k < (s.regsUpTo x).length) :
    (s.regsUpTo x)[k] = s.reg ⟨k, by have := x.isLt; simp at h; omega⟩ := by
  simp [State.regsUpTo, State.reg]

@[simp] theorem length_bcdDigits (b : Byte) : (bcdDigits b).length = 3 := rfl

end Sys2Proof.Laws
end

