-- ==== Sys2Proof/Laws/SideEffect.lean ====
section
/-! SUPPORT. What carrying out each side-effect descriptor can do, said once (spec/45_frame_sequencer.md R130,
spec/20_memory.md R43). -/

namespace Sys2Proof.Laws

open Sys2Proof.Machine

theorem dispatch_draw_cases (s : State) (x0 y0 : Byte) (a n : Nat) :
    (a + n ≤ 4096 ∧ s.dispatch (.draw x0 y0 a n) = s.drawSprite x0 y0 (Memory.readBytes s.mem a n)) ∨
    (4096 < a + n ∧ s.dispatch (.draw x0 y0 a n) = s.raise .memoryBounds) := by
  rcases memRead_cases s a n with ⟨h, e⟩ | ⟨h, e⟩
  · exact .inl ⟨h, by simp [State.dispatch, e]⟩
  · exact .inr ⟨h, by simp [State.dispatch, e]⟩

theorem dispatch_memDump_cases (s : State) (a : Nat) (bytes : List Byte) :
    (a + bytes.length ≤ 4096 ∧
      s.dispatch (.memDump a bytes) = { s with mem := Memory.writeBytes s.mem a bytes }) ∨
    (4096 < a + bytes.length ∧ s.dispatch (.memDump a bytes) = s.raise .memoryBounds) := by
  rcases memWrite_cases s a bytes with ⟨h, e⟩ | ⟨h, e⟩
  · exact .inl ⟨h, by simp [State.dispatch, e]⟩
  · exact .inr ⟨h, by simp [State.dispatch, e]⟩

theorem dispatch_memRead_cases (s : State) (a n : Nat) :
    (a + n ≤ 4096 ∧ s.dispatch (.memRead a n) = s.loadRegs (Memory.readBytes s.mem a n)) ∨
    (4096 < a + n ∧ s.dispatch (.memRead a n) = s.raise .memoryBounds) := by
  rcases memRead_cases s a n with ⟨h, e⟩ | ⟨h, e⟩
  · exact .inl ⟨h, by simp [State.dispatch, e]⟩
  · exact .inr ⟨h, by simp [State.dispatch, e]⟩

/-- What a key check can do: finish the advance, or stop on a code above 15 (R116, R117, R122). -/
theorem checkKey_cases (s : State) (k : Byte) (want : Bool) :
    (∃ h : k.toNat < 16, s.checkKey k want = s.skipIf (s.keyPressed ⟨k.toNat, h⟩ == want)) ∨
    (16 ≤ k.toNat ∧ s.checkKey k want = s.raise .keyIndex) := by
  by_cases h : k.toNat < 16
  · exact .inl ⟨h, by simp [State.checkKey, h]⟩
  · exact .inr ⟨by omega, by simp [State.checkKey, h]⟩

end Sys2Proof.Laws
end

