-- ==== Sys2Proof/Laws/Sequencer.lean ====
section
/-! SUPPORT. What each step of the frame does to each field, and the frame's case analysis said once
(spec/45_frame_sequencer.md R126). -/

namespace Sys2Proof.Laws

open Sys2Proof.Machine

/-! ### `startFrame` -/

@[simp] theorem startFrame_v (inp : FrameInput) (s : State) : (startFrame inp s).v = s.v := rfl
@[simp] theorem startFrame_i (inp : FrameInput) (s : State) : (startFrame inp s).i = s.i := rfl
@[simp] theorem startFrame_pc (inp : FrameInput) (s : State) : (startFrame inp s).pc = s.pc := rfl
@[simp] theorem startFrame_stack (inp : FrameInput) (s : State) : (startFrame inp s).stack = s.stack := rfl
@[simp] theorem startFrame_dt (inp : FrameInput) (s : State) : (startFrame inp s).dt = s.dt := rfl
@[simp] theorem startFrame_st (inp : FrameInput) (s : State) : (startFrame inp s).st = s.st := rfl
@[simp] theorem startFrame_mem (inp : FrameInput) (s : State) : (startFrame inp s).mem = s.mem := rfl
@[simp] theorem startFrame_fb (inp : FrameInput) (s : State) : (startFrame inp s).fb = s.fb := rfl
@[simp] theorem startFrame_key (inp : FrameInput) (s : State) : (startFrame inp s).key = s.key := rfl
@[simp] theorem startFrame_ms (inp : FrameInput) (s : State) : (startFrame inp s).ms = s.ms := rfl
@[simp] theorem startFrame_run (inp : FrameInput) (s : State) : (startFrame inp s).run = s.run := rfl
@[simp] theorem startFrame_gateCpu (inp : FrameInput) (s : State) : (startFrame inp s).gateCpu = s.gateCpu := rfl
@[simp] theorem startFrame_gate60 (inp : FrameInput) (s : State) : (startFrame inp s).gate60 = s.gate60 := rfl
@[simp] theorem startFrame_clock (inp : FrameInput) (s : State) : (startFrame inp s).clock = TimeInput.now s.clock inp.time := rfl
@[simp] theorem startFrame_out (inp : FrameInput) (s : State) : (startFrame inp s).out = FrameOutput.empty := rfl
@[simp] theorem startFrame_inputs (inp : FrameInput) (s : State) : (startFrame inp s).inputs = s.inputs := rfl
@[simp] theorem startFrame_frame (inp : FrameInput) (s : State) : (startFrame inp s).frame = s.frame := rfl

/-! ### `timerStep` -/

@[simp] theorem timerStep_v (s : State) : (timerStep s).v = s.v := rfl
@[simp] theorem timerStep_i (s : State) : (timerStep s).i = s.i := rfl
@[simp] theorem timerStep_pc (s : State) : (timerStep s).pc = s.pc := rfl
@[simp] theorem timerStep_stack (s : State) : (timerStep s).stack = s.stack := rfl
@[simp] theorem timerStep_dt (s : State) : (timerStep s).dt = countDown s.dt := rfl
@[simp] theorem timerStep_st (s : State) : (timerStep s).st = countDown s.st := rfl
@[simp] theorem timerStep_mem (s : State) : (timerStep s).mem = s.mem := rfl
@[simp] theorem timerStep_fb (s : State) : (timerStep s).fb = s.fb := rfl
@[simp] theorem timerStep_key (s : State) : (timerStep s).key = s.key := rfl
@[simp] theorem timerStep_ms (s : State) : (timerStep s).ms = s.ms := rfl
@[simp] theorem timerStep_run (s : State) : (timerStep s).run = s.run := rfl
@[simp] theorem timerStep_gateCpu (s : State) : (timerStep s).gateCpu = s.gateCpu := rfl
@[simp] theorem timerStep_gate60 (s : State) : (timerStep s).gate60 = s.gate60 := rfl
@[simp] theorem timerStep_clock (s : State) : (timerStep s).clock = s.clock := rfl
@[simp] theorem timerStep_out (s : State) : (timerStep s).out = { s.out with beep := decide (s.st ≠ 0#8) } := rfl
@[simp] theorem timerStep_inputs (s : State) : (timerStep s).inputs = s.inputs := rfl
@[simp] theorem timerStep_frame (s : State) : (timerStep s).frame = s.frame := rfl

/-! ### `stepFive` -/

@[simp] theorem stepFive_v (s : State) : (stepFive s).v = s.v := rfl
@[simp] theorem stepFive_i (s : State) : (stepFive s).i = s.i := rfl
@[simp] theorem stepFive_pc (s : State) : (stepFive s).pc = s.pc := rfl
@[simp] theorem stepFive_stack (s : State) : (stepFive s).stack = s.stack := rfl
@[simp] theorem stepFive_dt (s : State) : (stepFive s).dt = s.dt := rfl
@[simp] theorem stepFive_st (s : State) : (stepFive s).st = s.st := rfl
@[simp] theorem stepFive_mem (s : State) : (stepFive s).mem = s.mem := rfl
@[simp] theorem stepFive_fb (s : State) : (stepFive s).fb = s.fb := rfl
@[simp] theorem stepFive_key (s : State) : (stepFive s).key = noKeys := rfl
@[simp] theorem stepFive_ms (s : State) : (stepFive s).ms = s.ms := rfl
@[simp] theorem stepFive_run (s : State) : (stepFive s).run = s.run := rfl
@[simp] theorem stepFive_gateCpu (s : State) : (stepFive s).gateCpu = s.gateCpu := rfl
@[simp] theorem stepFive_gate60 (s : State) : (stepFive s).gate60 = s.gate60 := rfl
@[simp] theorem stepFive_clock (s : State) : (stepFive s).clock = s.clock := rfl
@[simp] theorem stepFive_out (s : State) : (stepFive s).out = s.out := rfl
@[simp] theorem stepFive_inputs (s : State) : (stepFive s).inputs = s.inputs.tail := rfl
@[simp] theorem stepFive_frame (s : State) : (stepFive s).frame = s.frame + 1 := rfl

/-! ### `idleFrame` -/

@[simp] theorem idleFrame_v (s : State) : (idleFrame s).v = s.v := rfl
@[simp] theorem idleFrame_i (s : State) : (idleFrame s).i = s.i := rfl
@[simp] theorem idleFrame_pc (s : State) : (idleFrame s).pc = s.pc := rfl
@[simp] theorem idleFrame_stack (s : State) : (idleFrame s).stack = s.stack := rfl
@[simp] theorem idleFrame_dt (s : State) : (idleFrame s).dt = s.dt := rfl
@[simp] theorem idleFrame_st (s : State) : (idleFrame s).st = s.st := rfl
@[simp] theorem idleFrame_mem (s : State) : (idleFrame s).mem = s.mem := rfl
@[simp] theorem idleFrame_fb (s : State) : (idleFrame s).fb = s.fb := rfl
@[simp] theorem idleFrame_key (s : State) : (idleFrame s).key = s.key := rfl
@[simp] theorem idleFrame_ms (s : State) : (idleFrame s).ms = s.ms := rfl
@[simp] theorem idleFrame_run (s : State) : (idleFrame s).run = s.run := rfl
@[simp] theorem idleFrame_gateCpu (s : State) : (idleFrame s).gateCpu = s.gateCpu := rfl
@[simp] theorem idleFrame_gate60 (s : State) : (idleFrame s).gate60 = s.gate60 := rfl
@[simp] theorem idleFrame_clock (s : State) : (idleFrame s).clock = s.clock := rfl
@[simp] theorem idleFrame_out (s : State) : (idleFrame s).out = FrameOutput.empty := rfl
@[simp] theorem idleFrame_inputs (s : State) : (idleFrame s).inputs = s.inputs := rfl
@[simp] theorem idleFrame_frame (s : State) : (idleFrame s).frame = s.frame := rfl

/-! ### `exitFrame` -/

@[simp] theorem exitFrame_v (s : State) : (exitFrame s).v = s.v := rfl
@[simp] theorem exitFrame_i (s : State) : (exitFrame s).i = s.i := rfl
@[simp] theorem exitFrame_pc (s : State) : (exitFrame s).pc = s.pc := rfl
@[simp] theorem exitFrame_stack (s : State) : (exitFrame s).stack = s.stack := rfl
@[simp] theorem exitFrame_dt (s : State) : (exitFrame s).dt = s.dt := rfl
@[simp] theorem exitFrame_st (s : State) : (exitFrame s).st = s.st := rfl
@[simp] theorem exitFrame_mem (s : State) : (exitFrame s).mem = s.mem := rfl
@[simp] theorem exitFrame_fb (s : State) : (exitFrame s).fb = s.fb := rfl
@[simp] theorem exitFrame_key (s : State) : (exitFrame s).key = s.key := rfl
@[simp] theorem exitFrame_ms (s : State) : (exitFrame s).ms = s.ms := rfl
@[simp] theorem exitFrame_run (s : State) : (exitFrame s).run = .stopped := rfl
@[simp] theorem exitFrame_gateCpu (s : State) : (exitFrame s).gateCpu = s.gateCpu := rfl
@[simp] theorem exitFrame_gate60 (s : State) : (exitFrame s).gate60 = s.gate60 := rfl
@[simp] theorem exitFrame_clock (s : State) : (exitFrame s).clock = s.clock := rfl
@[simp] theorem exitFrame_out (s : State) : (exitFrame s).out = FrameOutput.empty := rfl
@[simp] theorem exitFrame_inputs (s : State) : (exitFrame s).inputs = s.inputs := rfl
@[simp] theorem exitFrame_frame (s : State) : (exitFrame s).frame = s.frame := rfl

/-! ### Registers and inputs across the steps -/

@[simp] theorem reg_startFrame (inp : FrameInput) (s : State) (r : Reg) : (startFrame inp s).reg r = s.reg r := rfl
@[simp] theorem reg_stepFive (s : State) (r : Reg) : (stepFive s).reg r = s.reg r := rfl
@[simp] theorem reg_timerStep (s : State) (r : Reg) : (timerStep s).reg r = s.reg r := rfl

/-- While the frame runs, its inputs are those it began with. -/
theorem frameInput_congr {s t : State} (hi : t.inputs = s.inputs) (hf : t.frame = s.frame) :
    t.frameInput = s.frameInput := by
  unfold State.frameInput
  rw [hi, hf]

/-! ### Polling a gate -/

@[simp] theorem pollCpuGate_v (t : TimeInput) (s : State) : (pollCpuGate t s).2.v = s.v := by cases t <;> rfl
@[simp] theorem pollCpuGate_i (t : TimeInput) (s : State) : (pollCpuGate t s).2.i = s.i := by cases t <;> rfl
@[simp] theorem pollCpuGate_pc (t : TimeInput) (s : State) : (pollCpuGate t s).2.pc = s.pc := by cases t <;> rfl
@[simp] theorem pollCpuGate_stack (t : TimeInput) (s : State) : (pollCpuGate t s).2.stack = s.stack := by cases t <;> rfl
@[simp] theorem pollCpuGate_dt (t : TimeInput) (s : State) : (pollCpuGate t s).2.dt = s.dt := by cases t <;> rfl
@[simp] theorem pollCpuGate_st (t : TimeInput) (s : State) : (pollCpuGate t s).2.st = s.st := by cases t <;> rfl
@[simp] theorem pollCpuGate_mem (t : TimeInput) (s : State) : (pollCpuGate t s).2.mem = s.mem := by cases t <;> rfl
@[simp] theorem pollCpuGate_fb (t : TimeInput) (s : State) : (pollCpuGate t s).2.fb = s.fb := by cases t <;> rfl
@[simp] theorem pollCpuGate_key (t : TimeInput) (s : State) : (pollCpuGate t s).2.key = s.key := by cases t <;> rfl
@[simp] theorem pollCpuGate_ms (t : TimeInput) (s : State) : (pollCpuGate t s).2.ms = s.ms := by cases t <;> rfl
@[simp] theorem pollCpuGate_run (t : TimeInput) (s : State) : (pollCpuGate t s).2.run = s.run := by cases t <;> rfl
@[simp] theorem pollCpuGate_clock (t : TimeInput) (s : State) : (pollCpuGate t s).2.clock = s.clock := by cases t <;> rfl
@[simp] theorem pollCpuGate_out (t : TimeInput) (s : State) : (pollCpuGate t s).2.out = s.out := by cases t <;> rfl
@[simp] theorem pollCpuGate_inputs (t : TimeInput) (s : State) : (pollCpuGate t s).2.inputs = s.inputs := by cases t <;> rfl
@[simp] theorem pollCpuGate_frame (t : TimeInput) (s : State) : (pollCpuGate t s).2.frame = s.frame := by cases t <;> rfl
@[simp] theorem pollCpuGate_gate60 (t : TimeInput) (s : State) : (pollCpuGate t s).2.gate60 = s.gate60 := by cases t <;> rfl

@[simp] theorem pollSixtyGate_v (t : TimeInput) (s : State) : (pollSixtyGate t s).2.v = s.v := by cases t <;> rfl
@[simp] theorem pollSixtyGate_i (t : TimeInput) (s : State) : (pollSixtyGate t s).2.i = s.i := by cases t <;> rfl
@[simp] theorem pollSixtyGate_pc (t : TimeInput) (s : State) : (pollSixtyGate t s).2.pc = s.pc := by cases t <;> rfl
@[simp] theorem pollSixtyGate_stack (t : TimeInput) (s : State) : (pollSixtyGate t s).2.stack = s.stack := by cases t <;> rfl
@[simp] theorem pollSixtyGate_dt (t : TimeInput) (s : State) : (pollSixtyGate t s).2.dt = s.dt := by cases t <;> rfl
@[simp] theorem pollSixtyGate_st (t : TimeInput) (s : State) : (pollSixtyGate t s).2.st = s.st := by cases t <;> rfl
@[simp] theorem pollSixtyGate_mem (t : TimeInput) (s : State) : (pollSixtyGate t s).2.mem = s.mem := by cases t <;> rfl
@[simp] theorem pollSixtyGate_fb (t : TimeInput) (s : State) : (pollSixtyGate t s).2.fb = s.fb := by cases t <;> rfl
@[simp] theorem pollSixtyGate_key (t : TimeInput) (s : State) : (pollSixtyGate t s).2.key = s.key := by cases t <;> rfl
@[simp] theorem pollSixtyGate_ms (t : TimeInput) (s : State) : (pollSixtyGate t s).2.ms = s.ms := by cases t <;> rfl
@[simp] theorem pollSixtyGate_run (t : TimeInput) (s : State) : (pollSixtyGate t s).2.run = s.run := by cases t <;> rfl
@[simp] theorem pollSixtyGate_clock (t : TimeInput) (s : State) : (pollSixtyGate t s).2.clock = s.clock := by cases t <;> rfl
@[simp] theorem pollSixtyGate_out (t : TimeInput) (s : State) : (pollSixtyGate t s).2.out = s.out := by cases t <;> rfl
@[simp] theorem pollSixtyGate_inputs (t : TimeInput) (s : State) : (pollSixtyGate t s).2.inputs = s.inputs := by cases t <;> rfl
@[simp] theorem pollSixtyGate_frame (t : TimeInput) (s : State) : (pollSixtyGate t s).2.frame = s.frame := by cases t <;> rfl
@[simp] theorem pollSixtyGate_gateCpu (t : TimeInput) (s : State) : (pollSixtyGate t s).2.gateCpu = s.gateCpu := by cases t <;> rfl

/-- The gate's test in the subtraction of R155. -/
theorem gateTick_eq (interval last now : Nat) :
    gateTick interval last now =
      (decide ((now : Int) - (last : Int) ≥ (interval : Int)),
        if (now : Int) - (last : Int) ≥ (interval : Int) then now else last) := by
  unfold gateTick
  by_cases h : last + interval ≤ now
  · have : (now : Int) - (last : Int) ≥ (interval : Int) := by omega
    simp only [h, this, if_true, decide_true]
  · have : ¬ (now : Int) - (last : Int) ≥ (interval : Int) := by omega
    simp only [h, this, if_false, decide_false]

/-! ### The start of a frame -/

/-- What steps 1 and 2 and the poll of the CPU gate leave alone: they write only the outputs, the clock, that gate's
baseline, a key flag and, on a wake, one register and `MS` (R126 to R128). -/
structure SameBefore (s t : State) : Prop where
  i      : t.i = s.i
  pc     : t.pc = s.pc
  stack  : t.stack = s.stack
  dt     : t.dt = s.dt
  st     : t.st = s.st
  mem    : t.mem = s.mem
  fb     : t.fb = s.fb
  run    : t.run = s.run
  gate60 : t.gate60 = s.gate60
  inputs : t.inputs = s.inputs
  frame  : t.frame = s.frame

theorem beginFrame_same (inp : FrameInput) (s : State) : SameBefore s (beginFrame inp s).2 := by
  unfold beginFrame latchKey
  constructor <;> simp only [pollCpuGate_i, pollCpuGate_pc, pollCpuGate_stack, pollCpuGate_dt, pollCpuGate_st,
    pollCpuGate_mem, pollCpuGate_fb, pollCpuGate_run, pollCpuGate_gate60, pollCpuGate_inputs, pollCpuGate_frame] <;>
    cases inp.ev <;> cases hm : s.ms <;> simp [wake, hm]

/-- The outputs are empty when step 3 begins (R125). -/
theorem beginFrame_out (inp : FrameInput) (s : State) : (beginFrame inp s).2.out = FrameOutput.empty := by
  unfold beginFrame latchKey
  rw [pollCpuGate_out]
  cases inp.ev <;> cases hm : s.ms <;> simp [wake, hm]

/-! ### What each step can do -/

/-- Step 3 executes an instruction, or does nothing (R129). -/
theorem stepThree_cases (c : Bool) (s : State) :
    (c = true ∧ s.ms = .normal ∧ stepThree c s = executeOne s) ∨
    ((c = false ∨ ∃ r, s.ms = .waitKeyPress r) ∧ stepThree c s = .next s) := by
  cases c with
  | false => exact .inr ⟨.inl rfl, rfl⟩
  | true =>
    cases h : s.ms with
    | normal => exact .inl ⟨rfl, rfl, by simp [stepThree, h]⟩
    | waitKeyPress r => exact .inr ⟨.inr ⟨r, rfl⟩, by simp [stepThree, h]⟩

/-- What the fetch can do (R42). -/
theorem fetch_cases (s : State) :
    (s.pc.toNat < 0x0FFF ∧
      s.fetch = some (wordOfBytes (Memory.read s.mem s.pc.toNat) (Memory.read s.mem (s.pc.toNat + 1)))) ∨
    (0x0FFF ≤ s.pc.toNat ∧ s.fetch = none) := by
  unfold State.fetch Config.memSize
  by_cases h : s.pc.toNat < 0x0FFF
  · exact .inl ⟨h, by rw [if_pos (by omega)]⟩
  · exact .inr ⟨by omega, by rw [if_neg (by omega)]⟩

/-- Executing one instruction: the fetch is out of range, the word is unknown, or the decoded instruction executes (R126,
R129). -/
theorem executeOne_cases (s : State) :
    (s.fetch = none ∧ executeOne s = .next (s.raiseDecode .fetchOutOfRange)) ∨
    (∃ w, s.fetch = some w ∧ decodeWord w = none ∧ executeOne s = .next (s.raiseDecode (.unknownOpcode w))) ∨
    (∃ w i, s.fetch = some w ∧ decodeWord w = some i ∧ executeOne s = exec i s) := by
  unfold executeOne
  cases hf : s.fetch with
  | none => exact .inl ⟨rfl, rfl⟩
  | some w =>
    cases hd : decodeWord w with
    | none => exact .inr (.inl ⟨w, rfl, hd, by simp only [hd]⟩)
    | some i => exact .inr (.inr ⟨w, i, rfl, hd, by simp only [hd]⟩)

/-- What ends a frame: steps 4 and 5 for a running machine, nothing after a fatal (R141). -/
theorem finishFrame_running {t : TimeInput} {s : State} (h : s.run = .running) :
    finishFrame t s = stepFive (stepFour t s) := by
  simp [finishFrame, h]

theorem finishFrame_ended {t : TimeInput} {s : State} (h : s.run ≠ .running) : finishFrame t s = s := by
  cases hr : s.run with
  | running => exact absurd hr h
  | stopped => simp [finishFrame, hr]
  | faulted c => simp [finishFrame, hr]

/-- Applying a state change to an answer answers a next state only if the answer was one. -/
theorem onNext_next {f : State → State} {r : Result} {t : State} (h : onNext f r = .next t) :
    ∃ s, r = .next s ∧ t = f s := by
  cases r with
  | next s =>
    simp only [onNext, Host.Outcome.next.injEq] at h
    exact ⟨s, rfl, h.symm⟩
  | fault _ => simp [onNext] at h
  | refused _ => simp [onNext] at h

/-- The three kinds of frame (R126): the machine has ended and does nothing; `Exit`; or the five steps. -/
theorem step_cases (s : State) :
    (s.run ≠ .running ∧ step s = .next (idleFrame s)) ∨
    (s.run = .running ∧ s.frameInput.ev = .exit ∧ step s = .next (exitFrame s)) ∨
    (s.run = .running ∧ s.frameInput.ev ≠ .exit ∧ step s = runFrame s.frameInput s) := by
  unfold step frameStep
  cases hr : s.run with
  | stopped => exact .inl ⟨by simp, rfl⟩
  | faulted c => exact .inl ⟨by simp, rfl⟩
  | running =>
    cases he : s.frameInput.ev with
    | exit => exact .inr (.inl ⟨rfl, rfl, rfl⟩)
    | none => exact .inr (.inr ⟨rfl, by simp, rfl⟩)
    | key k => exact .inr (.inr ⟨rfl, by simp, rfl⟩)

end Sys2Proof.Laws
end

