-- ==== Sys2Proof/Laws/Exec.lean ====
section
/-! SUPPORT. What no instruction touches, said once for all of them: the time, the keypad latch and the inputs
(spec/10_state.md R31, spec/45_frame_sequencer.md R140). -/

namespace Sys2Proof.Laws

open Sys2Proof.Machine

/-- Two states agree on everything that only the frame sequencer writes. -/
structure SameEnv (s t : State) : Prop where
  clock   : t.clock = s.clock
  gateCpu : t.gateCpu = s.gateCpu
  gate60  : t.gate60 = s.gate60
  key     : t.key = s.key
  inputs  : t.inputs = s.inputs
  frame   : t.frame = s.frame

theorem dispatch_sameEnv (s : State) (fx : SideEffect) : SameEnv s (s.dispatch fx) := by
  cases fx with
  | clearDisplay => exact ⟨rfl, rfl, rfl, rfl, rfl, rfl⟩
  | draw x0 y0 a n =>
    rcases dispatch_draw_cases s x0 y0 a n with ⟨_, e⟩ | ⟨_, e⟩ <;> rw [e] <;> exact ⟨rfl, rfl, rfl, rfl, rfl, rfl⟩
  | memDump a bytes =>
    rcases dispatch_memDump_cases s a bytes with ⟨_, e⟩ | ⟨_, e⟩ <;> rw [e] <;> exact ⟨rfl, rfl, rfl, rfl, rfl, rfl⟩
  | memRead a n =>
    rcases dispatch_memRead_cases s a n with ⟨_, e⟩ | ⟨_, e⟩ <;> rw [e] <;> exact ⟨rfl, rfl, rfl, rfl, rfl, rfl⟩
  | waitKeyPress r => exact ⟨rfl, rfl, rfl, rfl, rfl, rfl⟩
  | checkKeyPressed k =>
    show SameEnv s (s.checkKey k true)
    rcases checkKey_cases s k true with ⟨_, e⟩ | ⟨_, e⟩ <;> rw [e] <;> exact ⟨rfl, rfl, rfl, rfl, rfl, rfl⟩
  | checkKeyReleased k =>
    show SameEnv s (s.checkKey k false)
    rcases checkKey_cases s k false with ⟨_, e⟩ | ⟨_, e⟩ <;> rw [e] <;> exact ⟨rfl, rfl, rfl, rfl, rfl, rfl⟩

/-- An instruction leaves alone what only the frame sequencer writes. -/
theorem exec_sameEnv {i : Instr} {s t : State} (h : exec i s = .next t) : SameEnv s t := by
  cases i
  case ret =>
    simp only [exec, execRet] at h
    split at h <;> (injection h with h; subst h; exact ⟨rfl, rfl, rfl, rfl, rfl, rfl⟩)
  case call =>
    simp only [exec, execCall] at h
    split at h <;> (injection h with h; subst h; exact ⟨rfl, rfl, rfl, rfl, rfl, rfl⟩)
  case cls | drw | skp | sknp | ldVxK | ldB | ldMemVx | ldVxMem =>
    injection h with h
    subst h
    obtain ⟨h1, h2, h3, h4, h5, h6⟩ := dispatch_sameEnv _ _
    exact ⟨h1, h2, h3, h4, h5, h6⟩
  all_goals
    injection h with h
    subst h
    exact ⟨rfl, rfl, rfl, rfl, rfl, rfl⟩

end Sys2Proof.Laws
end

