-- ==== Sys2Proof/Laws/PerInstr.lean ====
section
/-! SUPPORT. Statements made for every instruction, one lemma for each constructor. Family `Opcode`: the top nibble of an
instruction's word is the one its pattern in spec/30_encoding.md R59 gives. -/

namespace Sys2Proof.Laws.Opcode

/-- The top nibble of the instruction's pattern in R59. -/
def nibble : Instr → Nat
  | .nop _ => 0x0
  | .cls => 0x0
  | .ret => 0x0
  | .jp _ => 0x1
  | .call _ => 0x2
  | .seImm _ _ => 0x3
  | .sneImm _ _ => 0x4
  | .seReg _ _ => 0x5
  | .ldImm _ _ => 0x6
  | .addImm _ _ => 0x7
  | .ldReg _ _ => 0x8
  | .or _ _ => 0x8
  | .and _ _ => 0x8
  | .xor _ _ => 0x8
  | .addReg _ _ => 0x8
  | .sub _ _ => 0x8
  | .shr _ _ => 0x8
  | .subn _ _ => 0x8
  | .shl _ _ => 0x8
  | .sneReg _ _ => 0x9
  | .ldI _ => 0xA
  | .jpV0 _ => 0xB
  | .rnd _ _ => 0xC
  | .drw _ _ _ => 0xD
  | .skp _ => 0xE
  | .sknp _ => 0xE
  | .ldVxDt _ => 0xF
  | .ldVxK _ => 0xF
  | .ldDtVx _ => 0xF
  | .ldStVx _ => 0xF
  | .addI _ => 0xF
  | .ldF _ => 0xF
  | .ldB _ => 0xF
  | .ldMemVx _ => 0xF
  | .ldVxMem _ => 0xF

/-- The word of `i` has the top nibble of its pattern. -/
def Statement (i : Instr) : Prop := topNibble (encode i) = nibble i

theorem nop (nnn : Addr12) : Statement (.nop nnn) := topNibble_formatNNN _ _
theorem cls : Statement .cls := rfl
theorem ret : Statement .ret := rfl
theorem jp (nnn : Addr12) : Statement (.jp nnn) := topNibble_formatNNN _ _
theorem call (nnn : Addr12) : Statement (.call nnn) := topNibble_formatNNN _ _
theorem seImm (x : Reg) (nn : Byte) : Statement (.seImm x nn) := topNibble_formatXNN _ _ _
theorem sneImm (x : Reg) (nn : Byte) : Statement (.sneImm x nn) := topNibble_formatXNN _ _ _
theorem seReg (x y : Reg) : Statement (.seReg x y) := topNibble_formatXYN _ _ _ _
theorem ldImm (x : Reg) (nn : Byte) : Statement (.ldImm x nn) := topNibble_formatXNN _ _ _
theorem addImm (x : Reg) (nn : Byte) : Statement (.addImm x nn) := topNibble_formatXNN _ _ _
theorem ldReg (x y : Reg) : Statement (.ldReg x y) := topNibble_formatXYN _ _ _ _
theorem or (x y : Reg) : Statement (.or x y) := topNibble_formatXYN _ _ _ _
theorem and (x y : Reg) : Statement (.and x y) := topNibble_formatXYN _ _ _ _
theorem xor (x y : Reg) : Statement (.xor x y) := topNibble_formatXYN _ _ _ _
theorem addReg (x y : Reg) : Statement (.addReg x y) := topNibble_formatXYN _ _ _ _
theorem sub (x y : Reg) : Statement (.sub x y) := topNibble_formatXYN _ _ _ _
theorem shr (x y : Reg) : Statement (.shr x y) := topNibble_formatXYN _ _ _ _
theorem subn (x y : Reg) : Statement (.subn x y) := topNibble_formatXYN _ _ _ _
theorem shl (x y : Reg) : Statement (.shl x y) := topNibble_formatXYN _ _ _ _
theorem sneReg (x y : Reg) : Statement (.sneReg x y) := topNibble_formatXYN _ _ _ _
theorem ldI (nnn : Addr12) : Statement (.ldI nnn) := topNibble_formatNNN _ _
theorem jpV0 (nnn : Addr12) : Statement (.jpV0 nnn) := topNibble_formatNNN _ _
theorem rnd (x : Reg) (nn : Byte) : Statement (.rnd x nn) := topNibble_formatXNN _ _ _
theorem drw (x y : Reg) (n : Nibble) : Statement (.drw x y n) := topNibble_formatXYN _ _ _ _
theorem skp (x : Reg) : Statement (.skp x) := topNibble_formatXNN _ _ _
theorem sknp (x : Reg) : Statement (.sknp x) := topNibble_formatXNN _ _ _
theorem ldVxDt (x : Reg) : Statement (.ldVxDt x) := topNibble_formatXNN _ _ _
theorem ldVxK (x : Reg) : Statement (.ldVxK x) := topNibble_formatXNN _ _ _
theorem ldDtVx (x : Reg) : Statement (.ldDtVx x) := topNibble_formatXNN _ _ _
theorem ldStVx (x : Reg) : Statement (.ldStVx x) := topNibble_formatXNN _ _ _
theorem addI (x : Reg) : Statement (.addI x) := topNibble_formatXNN _ _ _
theorem ldF (x : Reg) : Statement (.ldF x) := topNibble_formatXNN _ _ _
theorem ldB (x : Reg) : Statement (.ldB x) := topNibble_formatXNN _ _ _
theorem ldMemVx (x : Reg) : Statement (.ldMemVx x) := topNibble_formatXNN _ _ _
theorem ldVxMem (x : Reg) : Statement (.ldVxMem x) := topNibble_formatXNN _ _ _

end Sys2Proof.Laws.Opcode
end

