-- ==== Sys2Proof/Laws/Screen.lean ====
section
/-! SUPPORT. The laws of the framebuffer and of the XOR-draw engine (spec/43_display.md R108 to R111). -/

namespace Sys2Proof.Laws

open Sys2Proof.Machine

@[simp] theorem pixel_cleared (x : Col) (y : Row) : FrameBuffer.pixel FrameBuffer.cleared x y = false := by
  simp [FrameBuffer.pixel, FrameBuffer.cleared]

/-- A flip changes its pixel and no other. -/
theorem pixel_flip (fb : FrameBuffer) (x x' : Col) (y y' : Row) :
    FrameBuffer.pixel (FrameBuffer.flip fb x y) x' y' =
      (FrameBuffer.pixel fb x' y' ^^ decide ((x', y') = (x, y))) := by
  have hx := x'.isLt
  by_cases hy : y = y'
  · subst hy
    have : decide (x.val = x'.val) = decide ((x', y) = (x, y)) := by simp [Fin.ext_iff, eq_comm]
    rw [FrameBuffer.pixel, FrameBuffer.flip, Vector.getElem_set_self, BitVec.getLsbD_xor, BitVec.getLsbD_twoPow, this]
    simp [FrameBuffer.pixel]
  · have hne : y.val ≠ y'.val := fun e => hy (Fin.ext e)
    simp [FrameBuffer.pixel, FrameBuffer.flip, Vector.getElem_set_ne _ _ hne, Ne.symm hy]

/-- Two framebuffers with the same pixels are equal. -/
theorem frameBuffer_ext {f g : FrameBuffer} (h : ∀ x y, FrameBuffer.pixel f x y = FrameBuffer.pixel g x y) : f = g := by
  apply Vector.ext
  intro i hi
  apply BitVec.eq_of_getLsbD_eq
  intro j hj
  exact h ⟨j, hj⟩ ⟨i, hi⟩

/-- Writing the value a flip leaves is the flip. -/
@[simp] theorem setPixel_not (fb : FrameBuffer) (x : Col) (y : Row) :
    FrameBuffer.setPixel fb x y (!FrameBuffer.pixel fb x y) = FrameBuffer.flip fb x y := by
  simp [FrameBuffer.setPixel]

/-- The events of a draw, replayed on the framebuffer before it, give the framebuffer after it (R111). -/
theorem replay_togglePixels (ps : List (Col × Row)) (fb : FrameBuffer) :
    replayEvents fb (togglePixels fb ps).events = (togglePixels fb ps).fb := by
  induction ps generalizing fb with
  | nil => rfl
  | cons p rest ih =>
    obtain ⟨x, y⟩ := p
    simp only [togglePixels, replayEvents, List.foldl_cons, RenderEvent.replay, setPixel_not]
    exact ih _

/-- Each pixel after a draw: toggled once for each time it is listed (R108). -/
theorem pixel_togglePixels (ps : List (Col × Row)) (fb : FrameBuffer) (x : Col) (y : Row) :
    FrameBuffer.pixel (togglePixels fb ps).fb x y =
      (FrameBuffer.pixel fb x y ^^ decide (ps.count (x, y) % 2 = 1)) := by
  induction ps generalizing fb with
  | nil => simp [togglePixels]
  | cons p rest ih =>
    obtain ⟨px, py⟩ := p
    simp only [togglePixels, ih, pixel_flip, List.count_cons]
    by_cases h : (x, y) = (px, py)
    · rw [h]
      rcases Nat.mod_two_eq_zero_or_one (List.count (px, py) rest) with hc | hc
      · have : (List.count (px, py) rest + 1) % 2 = 1 := by omega
        simp [hc, this]
      · have : (List.count (px, py) rest + 1) % 2 = 0 := by omega
        simp [hc, this]
    · have h' : ¬ (px, py) = (x, y) := fun e => h e.symm
      simp [h, h']

/-- With no pixel listed twice, the listed ones are toggled and the others are not. -/
theorem pixel_togglePixels_nodup {ps : List (Col × Row)} (h : ps.Nodup) (fb : FrameBuffer) (x : Col) (y : Row) :
    FrameBuffer.pixel (togglePixels fb ps).fb x y = (FrameBuffer.pixel fb x y ^^ decide ((x, y) ∈ ps)) := by
  rw [pixel_togglePixels, List.Nodup.count h]
  split <;> simp [*]

/-- With no pixel listed twice, `any_erased` says that a listed pixel was lit before the draw (R110). -/
theorem anyErased_togglePixels {ps : List (Col × Row)} (h : ps.Nodup) (fb : FrameBuffer) :
    (togglePixels fb ps).anyErased = ps.any fun p => FrameBuffer.pixel fb p.1 p.2 := by
  induction ps generalizing fb with
  | nil => rfl
  | cons p rest ih =>
    obtain ⟨x, y⟩ := p
    rw [List.nodup_cons] at h
    simp only [togglePixels, List.any_cons, ih h.2]
    congr 1
    have hcongr : ∀ q ∈ rest, FrameBuffer.pixel (FrameBuffer.flip fb x y) q.1 q.2 = FrameBuffer.pixel fb q.1 q.2 := by
      intro q hq
      have : ¬ (q.1, q.2) = (x, y) := fun e => h.1 (e ▸ hq)
      rw [pixel_flip]
      simp only [this, decide_false, Bool.xor_false]
    rw [Bool.eq_iff_iff, List.any_eq_true, List.any_eq_true]
    exact ⟨fun ⟨q, hq, e⟩ => ⟨q, hq, hcongr q hq ▸ e⟩, fun ⟨q, hq, e⟩ => ⟨q, hq, (hcongr q hq).symm ▸ e⟩⟩

/-- With no pixel listed twice, each event says what its pixel became (R111). -/
theorem events_togglePixels {ps : List (Col × Row)} (h : ps.Nodup) (fb : FrameBuffer) :
    (togglePixels fb ps).events = ps.map fun p => .pixel p.1 p.2 (!FrameBuffer.pixel fb p.1 p.2) := by
  induction ps generalizing fb with
  | nil => rfl
  | cons p rest ih =>
    obtain ⟨x, y⟩ := p
    rw [List.nodup_cons] at h
    simp only [togglePixels, List.map_cons, ih h.2]
    congr 1
    apply List.map_congr_left
    intro q hq
    have : ¬ (q.1, q.2) = (x, y) := fun e => h.1 (e ▸ hq)
    rw [pixel_flip]
    simp only [this, decide_false, Bool.xor_false]

theorem mem_rowPixels {x0 : Nat} {y : Row} {b : Byte} {p : Col × Row} :
    p ∈ rowPixels x0 y b ↔ ∃ c, c < 8 ∧ b.getLsbD (7 - c) = true ∧ p = (wrapCol x0 c, y) := by
  simp only [rowPixels, List.mem_map, List.mem_filter, List.mem_range]
  constructor
  · rintro ⟨c, ⟨h1, h2⟩, h3⟩; exact ⟨c, h1, h2, h3.symm⟩
  · rintro ⟨c, h1, h2, h3⟩; exact ⟨c, ⟨h1, h2⟩, h3.symm⟩

/-- The pixels a sprite toggles are those under its bits of 1 (R108). -/
theorem mem_spritePixelsFrom {x0 y0 r : Nat} {sprite : List Byte} {p : Col × Row} :
    p ∈ spritePixelsFrom x0 y0 r sprite ↔ ∃ k c, k < sprite.length ∧ c < 8 ∧
      (sprite.getD k 0#8).getLsbD (7 - c) = true ∧ p = (wrapCol x0 c, wrapRow y0 (r + k)) := by
  induction sprite generalizing r with
  | nil => simp [spritePixelsFrom]
  | cons b rest ih =>
    rw [spritePixelsFrom, List.mem_append, mem_rowPixels, ih]
    constructor
    · rintro (⟨c, h1, h2, h3⟩ | ⟨k, c, h0, h1, h2, h3⟩)
      · exact ⟨0, c, by simp, h1, by simpa using h2, by simpa using h3⟩
      · exact ⟨k + 1, c, by simpa using h0, h1, by simpa using h2, by rw [h3]; congr 2; omega⟩
    · rintro ⟨k, c, h0, h1, h2, h3⟩
      cases k with
      | zero => exact .inl ⟨c, h1, by simpa using h2, by simpa using h3⟩
      | succ k =>
        exact .inr ⟨k, c, by simpa using h0, h1, by simpa using h2, by rw [h3]; congr 2; omega⟩

theorem mem_spritePixels {x0 y0 : Nat} {sprite : List Byte} {p : Col × Row} :
    p ∈ spritePixels x0 y0 sprite ↔ ∃ k c, k < sprite.length ∧ c < 8 ∧
      (sprite.getD k 0#8).getLsbD (7 - c) = true ∧ p = (wrapCol x0 c, wrapRow y0 k) := by
  rw [spritePixels, mem_spritePixelsFrom]
  simp only [Nat.zero_add]

theorem nodup_rowPixels (x0 : Nat) (y : Row) (b : Byte) : (rowPixels x0 y b).Nodup := by
  refine List.Nodup.map_on ?_ (List.nodup_range.filter _)
  intro c hc c' hc' h
  simp only [List.mem_filter, List.mem_range] at hc hc'
  have := congrArg (fun p : Col × Row => p.1.val) h
  simp only [wrapCol] at this
  omega

/-- A sprite of at most 32 rows lists no pixel twice: it never overlaps itself (R109). -/
theorem nodup_spritePixelsFrom {x0 y0 r : Nat} {sprite : List Byte} (h : sprite.length ≤ 32) :
    (spritePixelsFrom x0 y0 r sprite).Nodup := by
  induction sprite generalizing r with
  | nil => simp [spritePixelsFrom]
  | cons b rest ih =>
    simp only [List.length_cons] at h
    rw [spritePixelsFrom, List.nodup_append]
    refine ⟨nodup_rowPixels _ _ _, ih (by omega), ?_⟩
    intro p hp q hq e
    obtain ⟨c, _, _, hp⟩ := mem_rowPixels.mp hp
    obtain ⟨k, c', hk, _, _, hq⟩ := mem_spritePixelsFrom.mp hq
    have := congrArg (fun p : Col × Row => p.2.val) (hp.symm.trans (e.trans hq))
    simp only [wrapRow] at this
    omega

/-- The same for a sprite drawn from its first row. -/
theorem nodup_spritePixels {x0 y0 : Nat} {sprite : List Byte} (h : sprite.length ≤ 32) :
    (spritePixels x0 y0 sprite).Nodup := nodup_spritePixelsFrom h

end Sys2Proof.Laws
end

