-- ==== Sys2Proof/Tests/Slice0.lean ====
section
/-! SUPPORT. The author's own tests. Expected values are the spec's: words from the patterns of spec/30_encoding.md R59,
results from spec/95_test_vectors.md (the vector's section stands at each test). Then, for every obligation that has
hypotheses, a concrete state and operands that meet them. -/

namespace Sys2Proof.Tests

open Sys2Proof.Machine Sys2Proof.Claim

/-! ### Helpers -/

/-- A view of the next state of an answer; `none` for a fault or a refusal. -/
def seen {α : Type} (view : State → α) : Result → Option α
  | .next t => some (view t)
  | .fault _ => none
  | .refused _ => none

/-- One frame that executes the word `w` and does nothing else, as a view of the state after it. -/
def after {α : Type} (w : Nat) (s : State) (view : State → α) : Option α := seen view (step (s.withFetchWord 16 w))

/-- The same frame with the inputs `inp`. -/
def afterWith {α : Type} (inp : FrameInput) (w : Nat) (s : State) (view : State → α) : Option α :=
  seen view (step { s.withFetchWord 16 w with inputs := [inp] })

/-- The reset state with registers set. -/
def regs (rs : List (Reg × Byte)) : State := rs.foldl (fun s p => s.setReg p.1 p.2) State.reset

/-- `s` with bytes in memory from `a` on. -/
def withBytes (s : State) (a : Nat) (bs : List Byte) : State := { s with mem := Memory.writeBytes s.mem a bs }

/-- `s` with the word `w` placed and the next frame's inputs given. -/
def placed (s : State) (w : Nat) (ev : InputEvent) (cpu t60 : Bool) : State :=
  { s.withFetchWord 16 w with inputs := [{ ev := ev, time := .ticks cpu t60, rnd := 0x5A#8 }] }

/-- `s` with the word `w` placed and a next frame in which `d` units of time have passed. -/
def elapsedBy (d : Nat) (ev : InputEvent) (w : Nat) (s : State) : State :=
  { s.withFetchWord 16 w with inputs := [{ ev := ev, time := .elapsed d, rnd := 0x5A#8 }] }

/-- A CPU gate whose interval has just passed ticks. -/
theorem cpuTicks_passed {s : State} (ht : s.frameInput.time = .elapsed Config.cpuInterval) (hc : s.clock = 0)
    (hg : s.gateCpu = 0) : cpuTicks s = true := by
  simp [cpuTicks, ht, hc, hg]

/-- A CPU gate whose baseline is not reached does not tick. -/
theorem cpuTicks_behind {s : State} (ht : s.frameInput.time = .elapsed 0) (hc : s.clock = 0) (hg : s.gateCpu = 1) :
    cpuTicks s = false := by
  simp only [cpuTicks, ht, hc, hg, decide_eq_false_iff_not]
  omega

/-- The columns of row `y` that are lit. -/
def litColumns (s : State) (y : Row) : List Nat :=
  ((List.finRange 64).filter fun x => FrameBuffer.pixel s.fb x y).map Fin.val

/-! ### Well-formedness -/

/-- R61. -/
theorem test_wf_refuses_nop_with_the_word_of_cls : Instr.wf (.nop 0x0E0#12) = false := by decide

/-- R61. -/
theorem test_wf_refuses_nop_with_the_word_of_ret : Instr.wf (.nop 0x0EE#12) = false := by decide

/-- R61. -/
theorem test_wf_accepts_other_nop_payloads :
    Instr.wf (.nop 0x000#12) = true ∧ Instr.wf (.nop 0x0E1#12) = true ∧ Instr.wf (.nop 0xFFF#12) = true := by decide

/-! ### Decoding: every row of R59, its word written out bit by bit -/

/-- R59, control transfer. -/
theorem test_decode_control :
    decodeWord 0b0000_0001_0010_0011#16 = some (.nop 0x123#12) ∧
    decodeWord 0b0000_0000_1110_1110#16 = some .ret ∧
    decodeWord 0b0001_1010_1011_1100#16 = some (.jp 0xABC#12) ∧
    decodeWord 0b0010_0100_0000_0001#16 = some (.call 0x401#12) ∧
    decodeWord 0b0011_0011_0010_1010#16 = some (.seImm 3 0x2A#8) ∧
    decodeWord 0b0100_1110_0111_0001#16 = some (.sneImm 14 0x71#8) ∧
    decodeWord 0b0101_0001_0010_0000#16 = some (.seReg 1 2) ∧
    decodeWord 0b1001_1010_1011_0000#16 = some (.sneReg 10 11) ∧
    decodeWord 0b1011_0011_0000_0101#16 = some (.jpV0 0x305#12) := by decide

/-- R59, register and ALU instructions. -/
theorem test_decode_alu :
    decodeWord 0b0110_1010_1111_1110#16 = some (.ldImm 10 0xFE#8) ∧
    decodeWord 0b0111_0001_0000_0101#16 = some (.addImm 1 0x05#8) ∧
    decodeWord 0b1000_0001_0010_0000#16 = some (.ldReg 1 2) ∧
    decodeWord 0b1000_0001_0010_0001#16 = some (.or 1 2) ∧
    decodeWord 0b1000_0001_0010_0010#16 = some (.and 1 2) ∧
    decodeWord 0b1000_0001_0010_0011#16 = some (.xor 1 2) ∧
    decodeWord 0b1000_0001_0010_0100#16 = some (.addReg 1 2) ∧
    decodeWord 0b1000_0001_0010_0101#16 = some (.sub 1 2) ∧
    decodeWord 0b1000_0001_0010_0110#16 = some (.shr 1 2) ∧
    decodeWord 0b1000_0001_0010_0111#16 = some (.subn 1 2) ∧
    decodeWord 0b1000_0001_0010_1110#16 = some (.shl 1 2) ∧
    decodeWord 0b1100_0001_0000_1111#16 = some (.rnd 1 0x0F#8) := by decide

/-- R59, address register and memory. -/
theorem test_decode_index_and_memory :
    decodeWord 0b1010_0010_0000_1100#16 = some (.ldI 0x20C#12) ∧
    decodeWord 0b1111_0100_0001_1110#16 = some (.addI 4) ∧
    decodeWord 0b1111_0100_0010_1001#16 = some (.ldF 4) ∧
    decodeWord 0b1111_0001_0011_0011#16 = some (.ldB 1) ∧
    decodeWord 0b1111_1111_0101_0101#16 = some (.ldMemVx 15) ∧
    decodeWord 0b1111_1111_0110_0101#16 = some (.ldVxMem 15) := by decide

/-- R59, display. -/
theorem test_decode_display :
    decodeWord 0b0000_0000_1110_0000#16 = some .cls ∧
    decodeWord 0b1101_0001_0010_1111#16 = some (.drw 1 2 0xF#4) := by decide

/-- R59, keypad and timers. -/
theorem test_decode_keypad_and_timers :
    decodeWord 0b1110_0010_1001_1110#16 = some (.skp 2) ∧
    decodeWord 0b1110_0010_1010_0001#16 = some (.sknp 2) ∧
    decodeWord 0b1111_0011_0000_0111#16 = some (.ldVxDt 3) ∧
    decodeWord 0b1111_0001_0000_1010#16 = some (.ldVxK 1) ∧
    decodeWord 0b1111_0011_0001_0101#16 = some (.ldDtVx 3) ∧
    decodeWord 0b1111_0011_0001_1000#16 = some (.ldStVx 3) := by decide

/-- V1. -/
theorem test_decode_unknown :
    ([0x8128, 0x812D, 0x812F, 0xE000, 0xE19F, 0xE1A0, 0xF000, 0xF1FF, 0xF175, 0xF185] : List Word).all
      (fun w => decodeWord w == none) = true := by decide

/-- V1. -/
theorem test_decode_noop_space :
    decodeWord 0x0000#16 = some (.nop 0x000#12) ∧ decodeWord 0x00E1#16 = some (.nop 0x0E1#12) ∧
    decodeWord 0x00EF#16 = some (.nop 0x0EF#12) ∧ decodeWord 0x01E0#16 = some (.nop 0x1E0#12) := by decide

/-- V1. -/
theorem test_decode_ignores_the_low_nibble_of_5_and_9 :
    decodeWord 0x512F#16 = some (.seReg 1 2) ∧ decodeWord 0x9AB7#16 = some (.sneReg 10 11) := by decide

/-- S2; the high byte first (R39). -/
theorem test_decode_table_word_reads_memory_order : decodeTableWord 16 0x600A = some (.ldImm 0 0x0A#8) := by decide

/-! ### Control transfer (S4, S5, V2) -/

theorem test_nop : after 0x0ABC State.reset (·.pc) = some 0x0202#16 := by decide

theorem test_jp_takes_an_odd_target : after 0x1001 State.reset (·.pc) = some 0x0001#16 := by decide

theorem test_jp_to_itself : after 0x1200 State.reset (·.pc) = some 0x0200#16 := by decide

theorem test_jpV0 : after 0xB300 (regs [(0, 0x10#8)]) (·.pc) = some 0x0310#16 := by decide

theorem test_jpV0_passes_the_end_of_memory : after 0xBFFF (regs [(0, 0xFF#8)]) (·.pc) = some 0x10FE#16 := by decide

theorem test_call_pushes_its_own_address :
    after 0x2400 (State.reset.setPc 0x0250#16) (fun t => (t.pc, t.stack)) = some (0x0400#16, [0x0250#16]) := by decide

theorem test_call_on_a_full_stack :
    after 0x2400 { State.reset with stack := List.replicate 16 0x0200#16 } (fun t => (t.run, t.pc, t.sp)) =
      some (.faulted .stackOverflow, 0x0200#16, 16) := by decide

theorem test_ret :
    after 0x00EE { State.reset with stack := [0x0250#16] } (fun t => (t.pc, t.stack)) = some (0x0252#16, []) := by decide

theorem test_ret_on_an_empty_stack :
    after 0x00EE State.reset (fun t => (t.run, t.pc)) = some (.faulted .stackUnderflow, 0x0200#16) := by decide

theorem test_seImm_equal : after 0x332A (regs [(3, 0x2A#8)]) (·.pc) = some 0x0204#16 := by decide

theorem test_seImm_differs : after 0x332A (regs [(3, 0x2B#8)]) (·.pc) = some 0x0202#16 := by decide

theorem test_sneImm_equal : after 0x4200 State.reset (·.pc) = some 0x0202#16 := by decide

theorem test_sneImm_differs : after 0x4200 (regs [(2, 0x01#8)]) (·.pc) = some 0x0204#16 := by decide

theorem test_seReg_equal : after 0x5120 (regs [(1, 7#8), (2, 7#8)]) (·.pc) = some 0x0204#16 := by decide

theorem test_seReg_differs : after 0x5120 (regs [(1, 7#8), (2, 8#8)]) (·.pc) = some 0x0202#16 := by decide

theorem test_sneReg_differs : after 0x9120 (regs [(1, 7#8), (2, 8#8)]) (·.pc) = some 0x0204#16 := by decide

theorem test_sneReg_same_register : after 0x9110 (regs [(1, 7#8)]) (·.pc) = some 0x0202#16 := by decide

/-! ### Registers and ALU (S3, V3) -/

theorem test_ldImm :
    after 0x6AFF (regs [(15, 0x01#8)]) (fun t => (t.reg 10, t.reg 15)) = some (0xFF#8, 0x01#8) := by decide

theorem test_ldImm_to_vf :
    after 0x6F00 (regs [(15, 0x01#8)]) (fun t => (t.reg 15, t.reg 0)) = some (0x00#8, 0x00#8) := by decide

theorem test_addImm_writes_no_flag :
    after 0x7101 (regs [(1, 0xFF#8)]) (fun t => (t.reg 1, t.reg 15)) = some (0x00#8, 0x00#8) := by decide

theorem test_addImm_wraps :
    after 0x71FF (regs [(1, 0x05#8), (15, 0x01#8)]) (fun t => (t.reg 1, t.reg 15)) = some (0x04#8, 0x01#8) := by decide

theorem test_ldReg :
    after 0x8120 (regs [(2, 0x9C#8)]) (fun t => (t.reg 1, t.reg 2)) = some (0x9C#8, 0x9C#8) := by decide

theorem test_or_leaves_vf :
    after 0x8121 (regs [(1, 0xF0#8), (2, 0x0F#8), (15, 0x01#8)]) (fun t => (t.reg 1, t.reg 15)) = some (0xFF#8, 0x01#8) := by decide

theorem test_and :
    after 0x8122 (regs [(1, 0xF0#8), (2, 0x3C#8)]) (fun t => (t.reg 1, t.reg 2)) = some (0x30#8, 0x3C#8) := by decide

theorem test_xor :
    after 0x8123 (regs [(1, 0xFF#8), (2, 0x0F#8)]) (fun t => (t.reg 1, t.reg 2)) = some (0xF0#8, 0x0F#8) := by decide

theorem test_addReg_carry :
    after 0x8014 (regs [(0, 0xFF#8), (1, 0x01#8)]) (fun t => (t.reg 0, t.reg 15)) = some (0x00#8, 0x01#8) := by decide

theorem test_addReg_to_vf_keeps_the_flag :
    after 0x8F14 (regs [(15, 0x05#8), (1, 0x03#8)]) (fun t => (t.reg 15, t.reg 1)) = some (0x00#8, 0x03#8) := by decide

theorem test_sub_borrow :
    after 0x8015 (regs [(0, 0x01#8), (1, 0x02#8)]) (fun t => (t.reg 0, t.reg 15)) = some (0xFF#8, 0x00#8) := by decide

theorem test_sub_equal :
    after 0x8125 (regs [(1, 0x05#8), (2, 0x05#8)]) (fun t => (t.reg 1, t.reg 15)) = some (0x00#8, 0x01#8) := by decide

theorem test_shr_reads_vy :
    after 0x8126 (regs [(1, 0xEE#8), (2, 0x03#8)]) (fun t => (t.reg 1, t.reg 2, t.reg 15)) = some (0x01#8, 0x03#8, 0x01#8) := by decide

theorem test_shr_to_vf :
    after 0x8F26 (regs [(2, 0x03#8)]) (fun t => (t.reg 15, t.reg 2)) = some (0x01#8, 0x03#8) := by decide

theorem test_subn_borrow :
    after 0x8127 (regs [(1, 0x02#8), (2, 0x01#8)]) (fun t => (t.reg 1, t.reg 15)) = some (0xFF#8, 0x00#8) := by decide

theorem test_subn :
    after 0x8127 (regs [(1, 0x01#8), (2, 0x02#8)]) (fun t => (t.reg 1, t.reg 15)) = some (0x01#8, 0x01#8) := by decide

theorem test_shl_reads_vy :
    after 0x801E (regs [(0, 0x77#8), (1, 0x80#8)]) (fun t => (t.reg 0, t.reg 1, t.reg 15)) = some (0x00#8, 0x80#8, 0x01#8) := by decide

theorem test_shl_of_vf :
    after 0x8FFE (regs [(15, 0x81#8)]) (fun t => (t.reg 15, t.reg 0)) = some (0x01#8, 0x00#8) := by decide

theorem test_rnd :
    afterWith { ev := .none, time := .ticks true false, rnd := 0xA7#8 } 0xC10F State.reset (·.reg 1) = some 0x07#8 := by decide

theorem test_rnd_with_mask_zero :
    afterWith { ev := .none, time := .ticks true false, rnd := 0xA7#8 } 0xC100 (regs [(1, 0x33#8)])
      (fun t => (t.reg 1, t.pc)) = some (0x00#8, 0x0202#16) := by decide

/-! ### Address register and memory (V4) -/

theorem test_ldI : after 0xAFFF State.reset (·.i) = some 0x0FFF#16 := by decide

theorem test_addI_wraps :
    after 0xF01E ((regs [(0, 1#8)]).setI 0xFFFF#16) (fun t => (t.i, t.reg 15)) = some (0x0000#16, 0x00#8) := by decide

theorem test_addI_past_the_end_of_memory :
    after 0xF01E ((regs [(0, 1#8)]).setI 0x0FFF#16) (fun t => (t.i, t.reg 15)) = some (0x1000#16, 0x00#8) := by decide

theorem test_ldF : after 0xF429 (regs [(4, 0x0F#8)]) (·.i) = some 0x004B#16 := by decide

theorem test_ldF_above_15 : after 0xF429 (regs [(4, 0x1A#8)]) (·.i) = some 0x0082#16 := by decide

theorem test_ldB :
    after 0xF133 ((regs [(1, 254#8)]).setI 0x0300#16) (fun t => (Memory.readBytes t.mem 0x300 3, t.i)) =
      some ([2#8, 5#8, 4#8], 0x0300#16) := by decide

theorem test_ldB_out_of_bounds :
    after 0xF133 (((regs [(1, 9#8)]).setI 0x0FFE#16).setPc 0x0204#16)
      (fun t => (t.run, t.pc, Memory.readBytes t.mem 0xFFE 2)) =
      some (.faulted .memoryBounds, 0x0206#16, [0#8, 0#8]) := by decide

theorem test_ldMemVx :
    after 0xF155 ((regs [(0, 0x11#8), (1, 0x22#8), (2, 0x33#8)]).setI 0x0400#16)
      (fun t => (Memory.readBytes t.mem 0x400 3, t.i)) = some ([0x11#8, 0x22#8, 0#8], 0x0402#16) := by decide

theorem test_ldMemVx_out_of_bounds :
    after 0xFF55 ((regs [(1, 1#8)]).setI 0x0FF1#16) (fun t => (t.run, t.i, Memory.read t.mem 0xFF2)) =
      some (.faulted .memoryBounds, 0x1001#16, 0#8) := by decide

theorem test_ldVxMem :
    after 0xF465 (regs [(5, 0x99#8)]) (fun t => (t.v.toList.take 6, t.i)) =
      some ([0xF0#8, 0x90#8, 0x90#8, 0x90#8, 0xF0#8, 0x99#8], 0x0005#16) := by decide

theorem test_ldVxMem_all :
    after 0xFF65 State.reset (fun t => (t.reg 5, t.reg 6, t.reg 15, t.i)) = some (0x20#8, 0x60#8, 0xF0#8, 0x0010#16) := by decide

/-! ### Display (S6, V5) -/

theorem test_cls :
    after 0x00E0 { State.reset with fb := Vector.replicate 32 0xFF#64 } (fun t => (litColumns t 3, t.out.render)) =
      some ([], [.clear]) := by decide

theorem test_drw_wraps :
    after 0xD011 (withBytes ((regs [(0, 60#8)]).setI 0x0300#16) 0x300 [0xFF#8]) (fun t => (litColumns t 0, t.reg 15)) =
      some ([0, 1, 2, 3, 60, 61, 62, 63], 0#8) := by decide

theorem test_drw_erases :
    after 0xD011 { withBytes (State.reset.setI 0x0300#16) 0x300 [0xC0#8] with
        fb := (Vector.replicate 32 0#64).set 0 1#64 } (fun t => (litColumns t 0, t.reg 15, t.out.render)) =
      some ([1], 1#8, [.pixel 0 0 false, .pixel 1 0 true]) := by decide

/-! ### Keypad and timers (V6) -/

theorem test_skp_pressed :
    afterWith { ev := .key 7, time := .ticks true false, rnd := 0#8 } 0xE29E ((regs [(2, 7#8)]).setPc 0x0230#16)
      (fun t => (t.pc, t.key)) = some (0x0234#16, noKeys) := by decide

theorem test_skp_another_key :
    afterWith { ev := .key 6, time := .ticks true false, rnd := 0#8 } 0xE29E ((regs [(2, 7#8)]).setPc 0x0230#16)
      (fun t => (t.pc, t.key)) = some (0x0232#16, noKeys) := by decide

theorem test_sknp_not_pressed :
    afterWith { ev := .none, time := .ticks true false, rnd := 0#8 } 0xE2A1 ((regs [(2, 7#8)]).setPc 0x0230#16)
      (fun t => (t.pc, t.key)) = some (0x0234#16, noKeys) := by decide

theorem test_sknp_key_index :
    after 0xE2A1 ((regs [(2, 0x10#8)]).setPc 0x0230#16) (fun t => (t.run, t.pc)) = some (.faulted .keyIndex, 0x0230#16) := by decide

theorem test_ldVxDt : after 0xF307 { State.reset with dt := 0x2C#8 } (·.reg 3) = some 0x2C#8 := by decide

/-- P4, frame 1. -/
theorem test_ldVxK_waits :
    after 0xF10A (regs [(1, 9#8)]) (fun t => (t.pc, t.ms, t.reg 1)) = some (0x0202#16, .waitKeyPress 1, 9#8) := by decide

theorem test_ldDtVx : after 0xF315 (regs [(3, 0x10#8)]) (·.dt) = some 0x10#8 := by decide

theorem test_ldDtVx_counts_down_in_the_same_frame :
    afterWith { ev := .none, time := .ticks true true, rnd := 0#8 } 0xF315 (regs [(3, 0x10#8)]) (·.dt) = some 0x0F#8 := by decide

theorem test_ldStVx_beeps_in_the_same_frame :
    afterWith { ev := .none, time := .ticks true true, rnd := 0#8 } 0xF318 (regs [(3, 0x02#8)])
      (fun t => (t.st, t.out.beep)) = some (0x01#8, true) := by decide

theorem test_ldStVx_zero_silences :
    afterWith { ev := .none, time := .ticks true true, rnd := 0#8 } 0xF318 { State.reset with st := 5#8 }
      (fun t => (t.st, t.out.beep)) = some (0x00#8, false) := by decide

/-! ### The frame, the gates and the fatals (S8, V7, V8, P4, P6) -/

/-- P4, frame 4. -/
theorem test_wake_executes_in_the_same_frame :
    seen (fun t => (t.reg 1, t.ms, t.dt, t.pc, t.key)) (step { placed State.reset 0xF115 (.key 7) true true with
      ms := .waitKeyPress 1 }) = some (7#8, .normal, 6#8, 0x0202#16, noKeys) := by decide

/-- P4, the line after the table: the wake is not gated by the CPU gate. -/
theorem test_wake_without_cpu_tick :
    seen (fun t => (t.reg 1, t.ms, t.dt, t.pc)) (step { placed { State.reset with dt := 5#8 } 0xF115 (.key 7) false true with
      ms := .waitKeyPress 1 }) = some (7#8, .normal, 4#8, 0x0200#16) := by decide

/-- V6: the event is lost to the program. -/
theorem test_no_instruction_without_cpu_tick :
    seen (fun t => (t.pc, t.key)) (step (placed (regs [(2, 7#8)]) 0xE29E (.key 7) false true)) = some (0x0200#16, noKeys) := by decide

/-- P4, frame 7. -/
theorem test_exit_stops :
    seen (fun t => (t.run, t.pc)) (step (placed State.reset 0xF000 .exit true true)) = some (.stopped, 0x0200#16) := by decide

/-- S8. -/
theorem test_gate_ticks : trueTimes 10 0 [3, 9, 10, 12, 19, 20, 35, 36] = [10, 20, 35] := by decide

/-- V7. -/
theorem test_timers_at_zero_stay :
    (timerStep State.reset).dt = 0#8 ∧ (timerStep State.reset).st = 0#8 ∧ (timerStep State.reset).out.beep = false := by decide

/-- P6. -/
theorem test_unknown_word_dumps :
    after 0xF000 ((regs [(0, 1#8)]).setPc 0x0202#16)
      (fun t => (t.run, t.pc, t.out.dump.map fun d => (d.v[0], d.pc))) =
      some (.faulted (.unknownOpcode 0xF000#16), 0x0202#16, some (1#8, 0x0202#16)) := by decide

/-- V8. -/
theorem test_fetch_out_of_range :
    seen (fun t => (t.run, t.pc)) (step { placed State.reset 0x0000 .none true false with pc := 0x0FFF#16 }) =
      some (.faulted .fetchOutOfRange, 0x0FFF#16) := by decide

/-- V2. -/
theorem test_skip_at_the_top_does_not_wrap :
    after 0x3000 (State.reset.setPc 0x0FFC#16) (·.pc) = some 0x1000#16 := by decide

/-- P5, R170. -/
theorem test_boot_loads_an_odd_image :
    Memory.readBytes (State.boot [0x12#8, 0x0A#8, 0xFF#8]).mem 0x200 4 = [0x12#8, 0x0A#8, 0xFF#8, 0x00#8] ∧
    Memory.read (State.boot [0x12#8, 0x0A#8, 0xFF#8]).mem 0 = 0xF0#8 := by decide

/-! ### Witnesses: concrete states and operands that meet each obligation's hypotheses -/

theorem witness_BootLoadsFontThenImage_font : (0 : Nat) < 80 ∧ (79 : Nat) < 80 ∧ (79 : Nat) < 4096 := by decide

theorem witness_BootLoadsFontThenImage_image :
    (0x200 : Nat) < 4096 ∧ ¬ (0x200 : Nat) < 80 ∧ (0x200 : Nat) ≤ 0x200 ∧ 0x200 - 0x200 < min [0x12#8].length 3584 := by decide

theorem witness_BootLoadsFontThenImage_last_byte :
    (4095 : Nat) < 4096 ∧ (0x200 : Nat) ≤ 4095 ∧ 4095 - 0x200 < min (List.replicate 3585 0xAA#8).length 3584 := by
  rw [List.length_replicate]; decide

theorem witness_BootLoadsFontThenImage_zero :
    (80 : Nat) < 4096 ∧ ¬ (80 : Nat) < 80 ∧ ¬ (0x200 : Nat) ≤ 80 ∧ ¬ (4095 - 0x200 < min [0x12#8].length 3584) := by decide

theorem witness_FrameKeepsInvariant :
    (placed State.reset 0xFF55 (.key 7) true true).inv = true ∧
    ∃ t, step (placed State.reset 0xFF55 (.key 7) true true) = .next t := ⟨by decide, _, rfl⟩

theorem witness_FrameKeepsInvariant_pc_at_its_bound :
    { State.reset with pc := 0x10FE#16, inputs := [cpuTickInput State.reset] }.inv = true ∧
    ∃ t, step { State.reset with pc := 0x10FE#16, inputs := [cpuTickInput State.reset] } = .next t := ⟨by decide, _, rfl⟩

theorem witness_FrameKeepsInvariant_faulted :
    { State.reset with run := .faulted .keyIndex, key := noKeys.set 7 true }.inv = true ∧
    ∃ t, step { State.reset with run := .faulted .keyIndex, key := noKeys.set 7 true } = .next t := ⟨by decide, _, rfl⟩

theorem witness_DecodeAfterEncodeIsIdentity :
    Instr.wf (.nop 0x0E1#12) = true ∧ Instr.wf (.nop 0x0EF#12) = true ∧ Instr.wf (.drw 15 15 0xF#4) = true := by decide

theorem witness_EncodeAfterDecodeIsCanonical :
    decodeWord 0x512F#16 = some (.seReg 1 2) ∧ decodeWord 0x8FFE#16 = some (.shl 15 15) := by decide

theorem witness_StepRunsTheDecodedInstruction_any_frame :
    let s := placed State.reset 0xF115 (.key 7) true true
    s.run = .running ∧ s.frameInput.ev ≠ .exit ∧ (beginFrame s.frameInput s).1 = true ∧
    (beginFrame s.frameInput s).2.ms = .normal ∧ (beginFrame s.frameInput s).2.pc.toNat < 0x0FFF ∧
    decode [Memory.read (beginFrame s.frameInput s).2.mem (beginFrame s.frameInput s).2.pc.toNat,
      Memory.read (beginFrame s.frameInput s).2.mem ((beginFrame s.frameInput s).2.pc.toNat + 1)] =
      .ok (.ldDtVx 1, []) := ⟨rfl, by decide, rfl, rfl, by decide, rfl⟩

theorem witness_StepRunsTheDecodedInstruction_clock :
    let s := { State.reset with
      mem := Memory.writeBytes [] 0x200 [0x6A#8, 0x42#8]
      inputs := [{ ev := .none, time := .elapsed Config.cpuInterval, rnd := 0#8 }] }
    s.run = .running ∧ s.frameInput.ev ≠ .exit ∧ (beginFrame s.frameInput s).1 = true ∧
    (beginFrame s.frameInput s).2.ms = .normal := by
  simp [State.reset, State.frameInput, beginFrame, latchKey, wake, startFrame, TimeInput.now, pollCpuGate, gateTick]

theorem witness_StepRunsTheDecodedInstruction_quiet_frame :
    let s := placed State.reset 0x6A42 .none true true
    Ready s .none true ∧ decodeWord (fetchedWord s) = some (.ldImm 10 0x42#8) ∧
    ∃ t, exec (.ldImm 10 0x42#8) { s with out := FrameOutput.empty } = .next t ∧ t.run = .running := ⟨⟨rfl, rfl, by decide, rfl, rfl⟩, rfl, _, rfl, rfl⟩

theorem witness_StepRunsTheDecodedInstruction_fatal :
    let s := placed State.reset 0x00EE .none true false
    Ready s .none false ∧ decodeWord (fetchedWord s) = some .ret ∧
    ∃ t, exec .ret { s with out := FrameOutput.empty } = .next t ∧ t.run ≠ .running := ⟨⟨rfl, rfl, by decide, rfl, rfl⟩, rfl, _, rfl, by decide⟩

theorem witness_PlacedWordIsTheNextInstruction :
    Memory.wf State.reset.mem = true ∧ decodeTableWord 16 0x6A42 = some (.ldImm 10 0x42#8) := by decide

theorem witness_NopOnlyAdvancesPc : (0x0E1#12 : Addr12) ≠ 0x0E0#12 ∧ (0x0E1#12 : Addr12) ≠ 0x0EE#12 := by decide

theorem witness_RetResumesAfterTheCall :
    { State.reset with stack := [0x0250#16] }.stack = 0x0250#16 :: [] ∧ State.reset.stack = [] := by decide

theorem witness_CallPushesItsOwnAddress :
    { State.reset with stack := List.replicate 15 0x0200#16 }.stack.length < 16 ∧
    16 ≤ { State.reset with stack := List.replicate 16 0x0200#16 }.stack.length := by decide

theorem witness_RndAndsTheDrawnByte :
    (placed State.reset 0xC10F .none true false).inputs = { ev := .none, time := .ticks true false, rnd := 0x5A#8 } :: [] ∧
    State.reset.inputs = [] := by decide

theorem witness_BcdStoreWritesThreeDigits :
    Memory.wf (State.reset.setI 0x0FFD#16).mem = true ∧ (State.reset.setI 0x0FFD#16).i.toNat + 3 ≤ 4096 ∧
    4096 < (State.reset.setI 0x0FFE#16).i.toNat + 3 := by decide

theorem witness_BcdStoreWritesThreeDigits_other_byte :
    ¬ ((State.reset.setI 0x0FFD#16).i.toNat ≤ 0xFFC ∧ 0xFFC < (State.reset.setI 0x0FFD#16).i.toNat + 3) := by decide

theorem witness_BulkStoreWritesV0ToVx :
    Memory.wf (State.reset.setI 0x0FF0#16).mem = true ∧ (State.reset.setI 0x0FF0#16).i.toNat + (15 : Reg).val + 1 ≤ 4096 ∧
    4096 < (State.reset.setI 0x0FF1#16).i.toNat + (15 : Reg).val + 1 ∧ (15 : Reg).val ≤ (15 : Reg).val := by decide

theorem witness_BulkLoadReadsV0ToVx :
    (State.reset.setI 0x0FFF#16).i.toNat + (0 : Reg).val + 1 ≤ 4096 ∧
    4096 < (State.reset.setI 0x1000#16).i.toNat + (0 : Reg).val + 1 := by decide

theorem witness_BulkTransferRoundTrip :
    Memory.wf (State.reset.setI 0x0FF0#16).mem = true ∧ (State.reset.setI 0x0FF0#16).i.toNat + (15 : Reg).val + 1 ≤ 4096 ∧
    ∃ t u : State, exec (.ldMemVx 15) (State.reset.setI 0x0FF0#16) = .next t ∧ u.mem = t.mem ∧
      u.i = (State.reset.setI 0x0FF0#16).i := ⟨rfl, by decide, _, State.setI _ 0x0FF0#16, rfl, rfl, rfl⟩

theorem witness_StoreIsSeenByTheNextFetch :
    Memory.wf (State.reset.setI 0x0202#16).mem = true ∧ 1 ≤ (1 : Reg).val ∧
    (State.reset.setI 0x0202#16).i = (State.reset.setI 0x0202#16).pc + 2#16 ∧
    (State.reset.setI 0x0202#16).i.toNat + (1 : Reg).val + 1 ≤ 4096 ∧
    ∃ t, exec (.ldMemVx 1) (State.reset.setI 0x0202#16) = .next t := ⟨rfl, by decide, by decide, by decide, _, rfl⟩

theorem witness_DrwXorsTheSpriteOntoTheScreen :
    (State.reset.setI 0x0FFB#16).i.toNat + (5#4 : Nibble).toNat ≤ 4096 ∧
    4096 < (State.reset.setI 0x0FFC#16).i.toNat + (5#4 : Nibble).toNat := by decide

theorem witness_DrwXorsTheSpriteOntoTheScreen_no_rows :
    (State.reset.setI 0x1000#16).i.toNat + (0#4 : Nibble).toNat ≤ 4096 ∧
    4096 < (State.reset.setI 0x1001#16).i.toNat + (0#4 : Nibble).toNat := by decide

theorem witness_DrawingTwiceRestoresTheScreen :
    (List.replicate 15 0x80#8).length ≤ 15 ∧
    (xorDraw FrameBuffer.cleared 60#8 30#8 (List.replicate 15 0x80#8)).anyErased = false ∧
    ∃ b ∈ List.replicate 15 0x80#8, b ≠ 0#8 := ⟨by decide, by decide, 0x80#8, by decide, by decide⟩

theorem witness_FramebufferIsTheReplayOfEvents :
    ∃ t, step (placed State.reset 0xD015 .none true false) = .next t ∧ t.out.render.length = 14 := ⟨_, rfl, by decide⟩

theorem witness_KeySkipsReadTheLatch :
    (regs [(2, 15#8)]).v[2].toNat = (15 : KeyCode).val ∧ 15 < (regs [(2, 16#8)]).v[2].toNat := by decide

theorem witness_WakeStoresTheKeyAndResumes :
    let s := { placed State.reset 0xF115 (.key 15) false false with ms := .waitKeyPress 15 }
    s.run = .running ∧ s.ms = .waitKeyPress 15 ∧ s.frameInput.ev = .key 15 ∧ cpuTicks s = false ∧ sixtyTicks s = false := by decide

theorem witness_WakeStoresTheKeyAndResumes_sixty_hz_tick :
    let s := { placed State.reset 0xF115 (.key 15) false true with ms := .waitKeyPress 15 }
    s.run = .running ∧ s.ms = .waitKeyPress 15 ∧ s.frameInput.ev = .key 15 ∧ cpuTicks s = false ∧ sixtyTicks s = true := by decide

theorem witness_WakeStoresTheKeyAndResumes_cpu_tick :
    let s := { placed State.reset 0xF115 (.key 0) true true with ms := .waitKeyPress 0 }
    s.run = .running ∧ s.ms = .waitKeyPress 0 ∧ s.frameInput.ev = .key 0 ∧ cpuTicks s = true := by decide

theorem witness_WakeStoresTheKeyAndResumes_interval_not_passed :
    let s := { elapsedBy 0 (.key 7) 0xF115 State.reset with ms := .waitKeyPress 1, gateCpu := 1 }
    s.run = .running ∧ s.ms = .waitKeyPress 1 ∧ s.frameInput.ev = .key 7 ∧ cpuTicks s = false := ⟨rfl, rfl, rfl, cpuTicks_behind rfl rfl rfl⟩

theorem witness_WakeStoresTheKeyAndResumes_interval_passed :
    let s := { elapsedBy Config.cpuInterval (.key 7) 0xF115 State.reset with ms := .waitKeyPress 1 }
    s.run = .running ∧ s.ms = .waitKeyPress 1 ∧ s.frameInput.ev = .key 7 ∧ cpuTicks s = true := ⟨rfl, rfl, rfl, cpuTicks_passed rfl rfl rfl⟩

theorem witness_WaitingMachineExecutesNothing :
    let s := { placed State.reset 0xF115 .none true true with ms := .waitKeyPress 1, st := 1#8 }
    s.run = .running ∧ s.ms = .waitKeyPress 1 ∧ s.frameInput.ev = .none ∧ cpuTicks s = true ∧ sixtyTicks s = true := by decide

theorem witness_WaitingMachineExecutesNothing_no_sixty_hz_tick :
    let s := { placed State.reset 0xF115 .none true false with ms := .waitKeyPress 1, st := 1#8 }
    s.run = .running ∧ s.ms = .waitKeyPress 1 ∧ s.frameInput.ev = .none ∧ sixtyTicks s = false := by decide

theorem witness_WaitingMachineExecutesNothing_elapsed :
    let s := { elapsedBy Config.cpuInterval .none 0xF115 State.reset with ms := .waitKeyPress 1 }
    s.run = .running ∧ s.ms = .waitKeyPress 1 ∧ s.frameInput.ev = .none ∧ cpuTicks s = true := ⟨rfl, rfl, rfl, cpuTicks_passed rfl rfl rfl⟩

theorem witness_SixtyHzStepFollowsTheInstruction :
    let s := placed (regs [(3, 2#8)]) 0xF318 .none true true
    s.run = .running ∧ s.frameInput.ev ≠ .exit ∧
    ∃ u, stepThree (beginFrame s.frameInput s).1 (beginFrame s.frameInput s).2 = .next u ∧ u.run = .running ∧
      (pollSixtyGate s.frameInput.time u).1 = true ∧ u.st = 2#8 := ⟨rfl, by decide, _, rfl, rfl, rfl, rfl⟩

theorem witness_SixtyHzStepFollowsTheInstruction_no_tick :
    let s := placed (regs [(3, 2#8)]) 0xF318 .none true false
    s.run = .running ∧ s.frameInput.ev ≠ .exit ∧
    ∃ u, stepThree (beginFrame s.frameInput s).1 (beginFrame s.frameInput s).2 = .next u ∧ u.run = .running ∧
      (pollSixtyGate s.frameInput.time u).1 ≠ true := ⟨rfl, by decide, _, rfl, rfl, by decide⟩

theorem witness_BeepExactlyWhenSoundTimerNonzero :
    ∃ t, step (placed (regs [(3, 2#8)]) 0xF318 .none true true) = .next t ∧ t.out.beep = true := ⟨_, rfl, rfl⟩

theorem witness_BeepExactlyWhenSoundTimerNonzero_silent :
    ∃ t, step (placed State.reset 0x6A42 .none true true) = .next t ∧ t.out.beep = false := ⟨_, rfl, rfl⟩

theorem witness_GateTicksAreAnIntervalApart :
    (20 : Nat) ∈ trueTimes 10 0 [3, 9, 10, 12, 19, 20, 35, 36] ∧ ((10 : Nat) : Int) - ((0 : Nat) : Int) ≥ ((10 : Nat) : Int) ∧
    ¬ ((9 : Nat) : Int) - ((0 : Nat) : Int) ≥ ((10 : Nat) : Int) := by decide

theorem witness_GatesArePolledInEveryFrame :
    let s := elapsedBy Config.cpuInterval .none 0x6A42 State.reset
    s.run = .running ∧ s.frameInput.ev ≠ .exit ∧ s.frameInput.time = .elapsed Config.cpuInterval ∧
    s.gateCpu + Config.cpuInterval ≤ s.clock + Config.cpuInterval ∧ (inputTaken s).ms = .normal := ⟨rfl, by decide, rfl, Nat.le_refl _, rfl⟩

theorem witness_GatesArePolledInEveryFrame_sixty_hz :
    let s := { elapsedBy Config.t60Interval .none 0x6A42 State.reset with ms := .waitKeyPress 1 }
    s.run = .running ∧ s.frameInput.ev ≠ .exit ∧ s.frameInput.time = .elapsed Config.t60Interval ∧
    s.gate60 + Config.t60Interval ≤ s.clock + Config.t60Interval ∧ (inputTaken s).run = .running := ⟨rfl, by decide, rfl, Nat.le_refl _, rfl⟩

theorem witness_GatesArePolledInEveryFrame_not_passed :
    let s := { elapsedBy 0 .none 0x6A42 State.reset with gateCpu := 1, gate60 := 1 }
    s.run = .running ∧ s.frameInput.ev ≠ .exit ∧ s.frameInput.time = .elapsed 0 ∧
    ¬ s.gateCpu + Config.cpuInterval ≤ s.clock + 0 ∧ ¬ s.gate60 + Config.t60Interval ≤ s.clock + 0 := by
  refine ⟨rfl, by decide, rfl, ?_, ?_⟩
  · show ¬ 1 + Config.cpuInterval ≤ 0 + 0
    omega
  · show ¬ 1 + Config.t60Interval ≤ 0 + 0
    omega

theorem witness_GatesArePolledInEveryFrame_fatal :
    let s := elapsedBy Config.cpuInterval .none 0x00EE State.reset
    s.run = .running ∧ s.frameInput.ev ≠ .exit ∧ s.frameInput.time = .elapsed Config.cpuInterval ∧
    s.gateCpu + Config.cpuInterval ≤ s.clock + Config.cpuInterval ∧ (inputTaken s).ms = .normal ∧
    ∃ u, executeOne (inputTaken s) = .next u ∧ u.run = .faulted .stackUnderflow := ⟨rfl, by decide, rfl, Nat.le_refl _, rfl, _, rfl, rfl⟩

theorem witness_KeyPulseLastsOneFrame :
    let s := placed (regs [(2, 7#8)]) 0xE29E (.key 7) true false
    s.key = noKeys ∧ decodeWord (fetchedWord s) = some (.skp 2) ∧ s.v[2].toNat = (7 : KeyCode).val ∧
    Ready s (.key 7) false := ⟨rfl, rfl, rfl, rfl, rfl, by decide, rfl, rfl⟩

theorem witness_KeyPulseLastsOneFrame_no_event :
    let s := placed (regs [(2, 7#8)]) 0xE29E .none true false
    s.key = noKeys ∧ decodeWord (fetchedWord s) = some (.skp 2) ∧ s.v[2].toNat = (7 : KeyCode).val ∧
    Ready s .none false := ⟨rfl, rfl, rfl, rfl, rfl, by decide, rfl, rfl⟩

theorem witness_FatalEndsTheFrameAndTheRun :
    let s := placed State.reset 0x00EE (.key 3) true true
    s.run = .running ∧ s.frameInput.ev ≠ .exit ∧
    ∃ u, stepThree (beginFrame s.frameInput s).1 (beginFrame s.frameInput s).2 = .next u ∧ u.run ≠ .running := ⟨rfl, by decide, _, rfl, by decide⟩

theorem witness_FatalEndsTheFrameAndTheRun_ended :
    { State.reset with run := .stopped }.run ≠ .running ∧ { State.reset with run := .faulted .keyIndex }.run ≠ .running := by decide

theorem witness_ExitStopsBeforeAnythingElse :
    (placed State.reset 0xF000 .exit true true).run = .running ∧ (placed State.reset 0xF000 .exit true true).frameInput.ev = .exit := by decide

theorem witness_FetchOutOfRangeStopsWithDump :
    let s := { placed State.reset 0x0000 .none true true with pc := 0x0FFF#16 }
    s.run = .running ∧ s.ms = .normal ∧ s.frameInput.ev = .none ∧ s.frameInput.time = .ticks true true ∧
    0x0FFF ≤ s.pc.toNat := by decide

theorem witness_UnknownWordStopsWithDumpOnlyIfFetched :
    let s := placed State.reset 0xF000 .none true true
    Ready s .none true ∧ decodeWord (fetchedWord s) = none := ⟨⟨rfl, rfl, by decide, rfl, rfl⟩, rfl⟩

theorem witness_UnknownWordStopsWithDumpOnlyIfFetched_raised :
    (placed State.reset 0xF000 .none true true).run = .running ∧
    ∃ t, step (placed State.reset 0xF000 .none true true) = .next t ∧ t.run = .faulted (.unknownOpcode 0xF000#16) := ⟨rfl, _, rfl, rfl⟩

theorem witness_OnlyTheseInstructionsAreFatal_ret :
    (State.reset).run = .running ∧
    ∃ t, exec .ret (State.reset) = .next t ∧ t.run ≠ .running := ⟨rfl, _, rfl, by decide⟩

theorem witness_OnlyTheseInstructionsAreFatal_call :
    ({ State.reset with stack := List.replicate 16 0x0200#16 }).run = .running ∧
    ∃ t, exec (.call 0x400#12) ({ State.reset with stack := List.replicate 16 0x0200#16 }) = .next t ∧ t.run ≠ .running := ⟨rfl, _, rfl, by decide⟩

theorem witness_OnlyTheseInstructionsAreFatal_key :
    (regs [(2, 16#8)]).run = .running ∧
    ∃ t, exec (.skp 2) (regs [(2, 16#8)]) = .next t ∧ t.run ≠ .running := ⟨rfl, _, rfl, by decide⟩

theorem witness_OnlyTheseInstructionsAreFatal_drw :
    (State.reset.setI 0x0FFC#16).run = .running ∧
    ∃ t, exec (.drw 0 1 5#4) (State.reset.setI 0x0FFC#16) = .next t ∧ t.run ≠ .running := ⟨rfl, _, rfl, by decide⟩

theorem witness_OnlyTheseInstructionsAreFatal_ldB :
    (State.reset.setI 0x0FFE#16).run = .running ∧
    ∃ t, exec (.ldB 1) (State.reset.setI 0x0FFE#16) = .next t ∧ t.run ≠ .running := ⟨rfl, _, rfl, by decide⟩

theorem witness_OnlyTheseInstructionsAreFatal_bulk :
    (State.reset.setI 0x0FF1#16).run = .running ∧
    ∃ t, exec (.ldMemVx 15) (State.reset.setI 0x0FF1#16) = .next t ∧ t.run ≠ .running := ⟨rfl, _, rfl, by decide⟩

theorem witness_RegistersChangeOnlyAsNamed :
    (∃ t, exec (.ldVxMem 14) State.reset = .next t) ∧ ¬ writesReg (.ldVxMem 14) 15 := ⟨⟨_, rfl⟩, by unfold writesReg; decide⟩

theorem witness_MemoryChangesOnlyWhereStored :
    Memory.wf (placed (regs [(1, 9#8)]) 0xF133 .none true true).mem = true ∧
    ∃ t, step ((placed (regs [(1, 9#8)]) 0xF133 .none true true).setI 0x0FFD#16) = .next t ∧
      Memory.read t.mem 0xFFF ≠ Memory.read (placed (regs [(1, 9#8)]) 0xF133 .none true true).mem 0xFFF := ⟨by decide, _, rfl, by decide⟩

theorem witness_MemoryChangesOnlyWhereStored_one_instruction :
    Memory.wf State.reset.mem = true ∧ (∃ t, exec (.ldI 0x300#12) State.reset = .next t) ∧
    ¬ storesTo (.ldI 0x300#12) State.reset 0x300 := ⟨rfl, ⟨_, rfl⟩, by
    rintro (⟨x, h, _⟩ | ⟨x, h, _⟩) <;> cases h⟩

theorem witness_OtherStateChangesOnlyAsNamed :
    (∃ t, exec (.ldReg 1 2) State.reset = .next t) ∧ (∀ nnn, Instr.ldReg 1 2 ≠ .call nnn) ∧ Instr.ldReg 1 2 ≠ .ret ∧
    (∀ nnn, Instr.ldReg 1 2 ≠ .ldI nnn) ∧
    (∀ x, Instr.ldReg 1 2 ≠ .addI x ∧ Instr.ldReg 1 2 ≠ .ldF x ∧ Instr.ldReg 1 2 ≠ .ldMemVx x ∧
      Instr.ldReg 1 2 ≠ .ldVxMem x) ∧
    (∀ x, Instr.ldReg 1 2 ≠ .ldDtVx x) ∧ (∀ x, Instr.ldReg 1 2 ≠ .ldStVx x) ∧ Instr.ldReg 1 2 ≠ .cls ∧
    (∀ x y n, Instr.ldReg 1 2 ≠ .drw x y n) ∧ (∀ x, Instr.ldReg 1 2 ≠ .ldVxK x) := by
  refine ⟨⟨_, rfl⟩, ?_⟩
  simp

theorem witness_RandomByteReachesOnlyRnd :
    let s := { placed State.reset 0x6A42 .none true true with
      inputs := { ev := .none, time := .ticks true true, rnd := 0x5A#8 } :: [] }
    ¬ ExecutesRnd s ∧ ∃ t, step s = .next t ∧ t.run = .running := by
  refine ⟨?_, _, rfl, rfl⟩
  rintro ⟨_, _, _, _, _, x, nn, h⟩
  have hd : decodeWord (fetchedWord (placed State.reset 0x6A42 .none true true)) = some (.ldImm 10 0x42#8) := rfl
  cases hd.symm.trans h

theorem witness_RandomByteReachesOnlyRnd_fatal :
    let s := { placed State.reset 0x00EE .none true true with
      inputs := { ev := .key 3, time := .ticks true true, rnd := 0x5A#8 } :: [] }
    ¬ ExecutesRnd s ∧ ∃ t, step s = .next t ∧ t.run = .faulted .stackUnderflow := by
  refine ⟨?_, _, rfl, rfl⟩
  rintro ⟨_, _, _, _, _, x, nn, h⟩
  have hd : decodeWord (fetchedWord (placed State.reset 0x00EE .none true true)) = some .ret := rfl
  cases hd.symm.trans h

theorem witness_RandomByteReachesOnlyRnd_exit :
    let s := { placed State.reset 0xC1FF .none true true with
      inputs := { ev := .exit, time := .ticks true true, rnd := 0x5A#8 } :: [] }
    ¬ ExecutesRnd s ∧ ∃ t, step s = .next t ∧ t.run = .stopped := by
  refine ⟨?_, _, rfl, rfl⟩
  rintro ⟨_, h, _⟩
  exact h rfl

theorem witness_RandomByteReachesOnlyRnd_no_cpu_tick :
    let s := { placed State.reset 0xC1FF .none true true with
      inputs := { ev := .none, time := .ticks false true, rnd := 0x5A#8 } :: [] }
    ¬ ExecutesRnd s ∧ ∃ t, step s = .next t ∧ t.run = .running := by
  refine ⟨?_, _, rfl, rfl⟩
  rintro ⟨_, _, h, _⟩
  cases h

theorem witness_IdleFrameChangesNothing :
    let s := placed State.reset 0x6A42 .none false false
    s.run = .running ∧ s.key = noKeys ∧ s.frameInput.ev = .none ∧ s.frameInput.time = .ticks false false := by decide

theorem witness_IdleFrameChangesNothing_key_and_sixty_hz_tick :
    let s := placed State.reset 0x6A42 (.key 7) false true
    s.run = .running ∧ s.frameInput.ev ≠ .exit ∧ cpuTicks s = false ∧ sixtyTicks s = true ∧ s.ms = .normal := by decide

theorem witness_IdleFrameChangesNothing_elapsed :
    let s := { elapsedBy 0 (.key 7) 0x6A42 State.reset with gateCpu := 1 }
    s.run = .running ∧ s.frameInput.ev ≠ .exit ∧ cpuTicks s = false := ⟨rfl, by decide, cpuTicks_behind rfl rfl rfl⟩

theorem witness_JumpToSelfIdles :
    let s := placed State.reset 0x1200 .none true false
    Ready s .none false ∧ s.key = noKeys ∧ decodeWord (fetchedWord s) = some (.jp 0x200#12) ∧
    (0x200#12 : Addr12).toNat = s.pc.toNat := ⟨⟨rfl, rfl, by decide, rfl, rfl⟩, rfl, rfl, rfl⟩

end Sys2Proof.Tests
end

section
/-! The writers of memory (spec/20_memory.md R36, R52; spec/70_reset_and_hazards.md R167): what the load of an image
leaves at each address, and which bytes an instruction and a frame can change. -/

namespace Sys2Proof.Proofs

open Sys2Proof.Machine Sys2Proof.Laws Sys2Proof.Claim

/-! ### The load at reset -/

/-- The load writes the cut image at 0x200 over the reset contents (R167, R169). -/
theorem read_loadImage (rom : List Byte) (a : Nat) :
    Memory.read (loadImage rom) a =
      if 0x200 ≤ a ∧ a - 0x200 < min rom.length 3584 then rom.getD (a - 0x200) 0#8 else Memory.background a := by
  have hwrite := read_writeBytes (loadBase_add_length_le rom) wf_reset a
  have hlen : (rom.take Config.romMax).length = min rom.length 3584 := by
    rw [List.length_take, Nat.min_comm]; rfl
  rw [hlen] at hwrite
  refine hwrite.trans ?_
  by_cases hin : 0x200 ≤ a ∧ a - 0x200 < min rom.length 3584
  · have hcut : a - 0x200 < Config.romMax := lt_of_lt_of_le hin.2 (Nat.min_le_right _ _)
    rw [if_pos hin, if_pos ⟨hin.1, by simp only [Config.loadBase]; omega⟩]
    simp only [Config.loadBase, List.getD_eq_getElem?_getD, List.getElem?_take_of_lt hcut]
  · rw [if_neg hin, if_neg (by simp only [Config.loadBase]; omega)]
    rfl

/-- Settles O1: the image lies above the font, so at each address one of the two, or neither, gives the byte. -/
theorem bootLoadsFontThenImage : Obligations.BootLoadsFontThenImage := by
  unfold Obligations.BootLoadsFontThenImage
  refine ⟨rfl, fun rom a _ => (read_loadImage rom a).trans ?_⟩
  by_cases hfont : a < 80
  · rw [if_pos hfont, if_neg (by omega)]
    exact if_pos hfont
  · rw [if_neg hfont, show Memory.background a = 0#8 from if_neg hfont]

/-! ### One instruction -/

/-- The bytes an instruction stores from `I` on: the digits of LD B, the registers of LD [I],Vx, and none for any other
instruction (R101, R102). -/
def storedBytes : Instr → State → List Byte
  | .ldB x, s => bcdDigits (s.reg x)
  | .ldMemVx x, s => s.regsUpTo x
  | _, _ => []

/-- The addresses an instruction stores to are those of the bytes it stores. -/
theorem storesTo_iff (i : Instr) (s : State) (a : Nat) :
    storesTo i s a ↔ s.i.toNat ≤ a ∧ a < s.i.toNat + (storedBytes i s).length := by
  unfold storesTo
  cases i
  case ldB x => simp [storedBytes]
  case ldMemVx x => simp [storedBytes, Nat.add_assoc]
  all_goals simp [storedBytes]

/-- Where an instruction stores depends on `I` alone. -/
theorem storesTo_congr {s t : State} (h : t.i = s.i) (i : Instr) (a : Nat) : storesTo i t a ↔ storesTo i s a := by
  unfold storesTo
  rw [h]

/-- Of the descriptors of phase 2, only the memory dump writes memory (R52, R130). -/
theorem dispatch_mem_of_ne_memDump (s : State) {fx : SideEffect} (h : ∀ a bytes, fx ≠ .memDump a bytes) :
    (s.dispatch fx).mem = s.mem := by
  cases fx with
  | memDump a bytes => exact absurd rfl (h a bytes)
  | clearDisplay => rfl
  | waitKeyPress r => rfl
  | draw x0 y0 a n => rcases dispatch_draw_cases s x0 y0 a n with ⟨_, e⟩ | ⟨_, e⟩ <;> rw [e] <;> rfl
  | memRead a n => rcases dispatch_memRead_cases s a n with ⟨_, e⟩ | ⟨_, e⟩ <;> rw [e] <;> rfl
  | checkKeyPressed k =>
    change (s.checkKey k true).mem = s.mem
    rcases checkKey_cases s k true with ⟨_, e⟩ | ⟨_, e⟩ <;> rw [e] <;> rfl
  | checkKeyReleased k =>
    change (s.checkKey k false).mem = s.mem
    rcases checkKey_cases s k false with ⟨_, e⟩ | ⟨_, e⟩ <;> rw [e] <;> rfl

/-- A memory dump writes all its bytes, or none where they would pass the end of memory (R43). -/
theorem dispatch_memDump_mem (s : State) (a : Nat) (bytes : List Byte) :
    (s.dispatch (.memDump a bytes)).mem = s.mem ∨
    (a + bytes.length ≤ Config.memSize ∧
      (s.dispatch (.memDump a bytes)).mem = Memory.writeBytes s.mem a bytes) := by
  rcases dispatch_memDump_cases s a bytes with ⟨hfit, e⟩ | ⟨_, e⟩
  · exact .inr ⟨hfit, by rw [e]⟩
  · exact .inl (by rw [e, raise_mem])

/-- What an instruction can do to memory: nothing, or store its bytes from `I` on, inside memory (R52). -/
theorem exec_mem {i : Instr} {s t : State} (h : exec i s = .next t) :
    t.mem = s.mem ∨
    (s.i.toNat + (storedBytes i s).length ≤ Config.memSize ∧
      t.mem = Memory.writeBytes s.mem s.i.toNat (storedBytes i s)) := by
  cases i
  case ldB | ldMemVx =>
    injection h with h
    subst h
    exact dispatch_memDump_mem _ _ _
  case ret =>
    simp only [exec, execRet] at h
    split at h <;> (injection h with h; subst h; exact .inl rfl)
  case call =>
    simp only [exec, execCall] at h
    split at h <;> (injection h with h; subst h; exact .inl rfl)
  case cls | drw | skp | sknp | ldVxK | ldVxMem =>
    injection h with h
    subst h
    exact .inl (dispatch_mem_of_ne_memDump _ nofun)
  all_goals
    injection h with h
    subst h
    exact .inl rfl

/-- An instruction leaves every byte it does not store to. -/
theorem exec_read_of_not_storesTo {i : Instr} {s t : State} {a : Nat} (hwf : Memory.wf s.mem = true)
    (h : exec i s = .next t) (ha : ¬ storesTo i s a) : Memory.read t.mem a = Memory.read s.mem a := by
  rcases exec_mem h with hmem | ⟨hfit, hmem⟩
  · rw [hmem]
  · rw [hmem, read_writeBytes hfit hwf, if_neg (ha ∘ (storesTo_iff i s a).mpr)]

/-! ### A whole frame -/

@[simp] theorem stepFour_mem (t : TimeInput) (s : State) : (stepFour t s).mem = s.mem := by
  unfold stepFour
  cases h : (pollSixtyGate t s).1 <;> simp [h]

/-- The end of a frame writes no memory. -/
@[simp] theorem finishFrame_mem (t : TimeInput) (s : State) : (finishFrame t s).mem = s.mem := by
  by_cases h : s.run = .running
  · rw [finishFrame_running h, stepFive_mem, stepFour_mem]
  · rw [finishFrame_ended h]

/-- What executing one instruction can do to memory: nothing, or what the fetched instruction does. -/
theorem executeOne_mem {s t : State} (h : executeOne s = .next t) :
    t.mem = s.mem ∨ ∃ i, decodeWord (fetchedWord s) = some i ∧ exec i s = .next t := by
  rcases executeOne_cases s with ⟨_, e⟩ | ⟨_, _, _, e⟩ | ⟨w, i, hfetch, hdecode, e⟩ <;> rw [e] at h
  · injection h with h
    exact .inl (by rw [← h, raiseDecode_mem])
  · injection h with h
    exact .inl (by rw [← h, raiseDecode_mem])
  · rcases fetch_cases s with ⟨_, hword⟩ | ⟨_, hnone⟩
    · have hw : fetchedWord s = w := Option.some.inj (hword.symm.trans hfetch)
      exact .inr ⟨i, hw ▸ hdecode, h⟩
    · cases hnone.symm.trans hfetch

/-- What the five steps of a frame can do to memory: nothing, or what the instruction that step 3 executes does, in the
state `beginFrame` leaves. -/
theorem runFrame_mem {inp : FrameInput} {s t : State} (h : runFrame inp s = .next t) :
    t.mem = s.mem ∨
    ∃ i u, decodeWord (fetchedWord s) = some i ∧ exec i (beginFrame inp s).2 = .next u ∧ t.mem = u.mem := by
  have hsame := beginFrame_same inp s
  obtain ⟨u, hthree, rfl⟩ := onNext_next h
  rw [finishFrame_mem]
  rcases stepThree_cases (beginFrame inp s).1 (beginFrame inp s).2 with ⟨_, _, e⟩ | ⟨_, e⟩ <;> rw [e] at hthree
  · have hword : fetchedWord (beginFrame inp s).2 = fetchedWord s := by
      rw [fetchedWord, hsame.mem, hsame.pc, ← fetchedWord]
    rcases executeOne_mem hthree with hmem | ⟨i, hdecode, hexec⟩
    · exact .inl (hmem.trans hsame.mem)
    · exact .inr ⟨i, u, hword ▸ hdecode, hexec, rfl⟩
  · injection hthree with hthree
    exact .inl (hthree ▸ hsame.mem)

/-- A byte that a frame changes is one that the instruction it fetches stores to. -/
theorem runFrame_changed_byte {inp : FrameInput} {s t : State} {a : Nat} (hwf : Memory.wf s.mem = true)
    (h : runFrame inp s = .next t) (hne : Memory.read t.mem a ≠ Memory.read s.mem a) :
    ∃ i, decodeWord (fetchedWord s) = some i ∧ storesTo i s a := by
  have hsame := beginFrame_same inp s
  rcases runFrame_mem h with hmem | ⟨i, u, hdecode, hexec, hmem⟩
  · exact absurd (by rw [hmem]) hne
  · refine ⟨i, hdecode, ?_⟩
    by_contra hstore
    have hread := exec_read_of_not_storesTo (hsame.mem.symm ▸ hwf) hexec (hstore ∘ (storesTo_congr hsame.i i a).mp)
    exact hne (by rw [hmem, hread, hsame.mem])

/-- Settles O56: a machine that has ended and an `Exit` frame keep memory whole, and any other frame changes only bytes
that its fetched instruction stores to. -/
theorem memoryChangesOnlyWhereStored : Obligations.MemoryChangesOnlyWhereStored := by
  unfold Obligations.MemoryChangesOnlyWhereStored
  refine ⟨fun s t a hwf hstep hne => ?_, fun i s t a hwf hexec ha => exec_read_of_not_storesTo hwf hexec ha⟩
  rcases step_cases s with ⟨_, e⟩ | ⟨_, _, e⟩ | ⟨hrun, _, e⟩ <;> rw [e] at hstep
  · injection hstep with hstep
    exact absurd (by rw [← hstep, idleFrame_mem]) hne
  · injection hstep with hstep
    exact absurd (by rw [← hstep, exitFrame_mem]) hne
  · exact ⟨hrun, runFrame_changed_byte hwf hstep hne⟩

end Sys2Proof.Proofs
end

section
/-! Control transfer (spec/40_control.md): what the words of format `NNN` decode to, and the no-op space `0nnn` (R70). -/

namespace Sys2Proof.Proofs

open Sys2Proof.Machine Sys2Proof.Laws Sys2Proof.Claim

/-! ### Words of format `NNN` -/

/-- The word a claim writes as a number is the one the encoder writes from its fields (R54). -/
theorem wordNNN_eq_formatNNN (op : BitVec 4) (nnn : Addr12) : wordNNN op.toNat nnn = formatNNN op nnn := by
  apply BitVec.eq_of_toNat_eq
  rw [formatNNN_toNat, wordNNN, BitVec.toNat_ofNat]
  exact Nat.mod_eq_of_lt (by omega)

/-- Under one opcode nibble, different payloads give different words. -/
theorem formatNNN_inj (op : BitVec 4) (a b : Addr12) : formatNNN op a = formatNNN op b ↔ a = b :=
  ⟨fun h => by rw [← fieldNNN_formatNNN op a, h, fieldNNN_formatNNN], congrArg _⟩

/-! ### NOP -/

/-- Of the words of top nibble 0, only those of CLS and RET are not a NOP (R61). -/
theorem decode0_formatNNN {nnn : Addr12} (hcls : nnn ≠ 0x0E0#12) (hret : nnn ≠ 0x0EE#12) :
    decode0 (formatNNN 0x0#4 nnn) = .nop nnn := by
  have hclsWord : formatNNN 0x0#4 nnn ≠ 0x00E0#16 := (formatNNN_inj 0x0#4 nnn 0x0E0#12).not.mpr hcls
  have hretWord : formatNNN 0x0#4 nnn ≠ 0x00EE#16 := (formatNNN_inj 0x0#4 nnn 0x0EE#12).not.mpr hret
  rw [decode0, if_neg hclsWord, if_neg hretWord, fieldNNN_formatNNN]

/-- Top nibble 0 always decodes, to the instruction `decode0` selects (R57). -/
theorem decodeWord_of_topNibble_zero {w : Word} (h : topNibble w = 0x0) : decodeWord w = some (decode0 w) := by
  simp only [decodeWord, h]

/-- NOP is the default advance (R70). -/
theorem exec_nop (nnn : Addr12) (s : State) : exec (.nop nnn) s = .next s.advance := rfl

/-- Settles O12: CLS and RET take the two excluded payloads, and every other word of top nibble 0 is a NOP, whose
execution is the default advance. -/
theorem nopOnlyAdvancesPc : Obligations.NopOnlyAdvancesPc := by
  unfold Obligations.NopOnlyAdvancesPc
  intro nnn hcls hret
  have hword : wordNNN 0x0 nnn = formatNNN 0x0#4 nnn := wordNNN_eq_formatNNN 0x0#4 nnn
  refine ⟨?_, exec_nop nnn⟩
  rw [hword, decodeWord_of_topNibble_zero (topNibble_formatNNN _ _), decode0_formatNNN hcls hret]

end Sys2Proof.Proofs
end

section
/-! Registers and ALU (spec/41_alu.md): what the words of format `XNN` decode to, and LD Vx,nn (R82). -/

namespace Sys2Proof.Proofs

open Sys2Proof.Machine Sys2Proof.Laws Sys2Proof.Claim

/-! ### Words of format `XNN` -/

/-- The word a claim writes as a number is the one the encoder writes from its fields (R54). -/
theorem wordXNN_eq_formatXNN (op : BitVec 4) (x : Reg) (nn : Byte) :
    wordXNN op.toNat x nn.toNat = formatXNN op x nn := by
  apply BitVec.eq_of_toNat_eq
  rw [formatXNN_toNat, wordXNN, BitVec.toNat_ofNat]
  exact Nat.mod_eq_of_lt (by omega)

/-! ### LD Vx,nn -/

/-- Top nibble 6 decodes to LD Vx,nn with the word's own fields (R59). -/
theorem decodeWord_of_topNibble_six {w : Word} (h : topNibble w = 0x6) :
    decodeWord w = some (.ldImm (fieldX w) (fieldNN w)) := by
  simp only [decodeWord, h]

/-- LD Vx,nn sets its register and advances (R82). -/
theorem exec_ldImm (x : Reg) (nn : Byte) (s : State) : exec (.ldImm x nn) s = .next (s.setReg x nn).advance := rfl

/-- Settles O19: the fields of the word 6xnn are `x` and `nn`, and the execution is one register write and the default
advance, with no case for `VF`. -/
theorem loadImmediateWritesOneRegister : Obligations.LoadImmediateWritesOneRegister := by
  unfold Obligations.LoadImmediateWritesOneRegister
  intro x nn
  have hword : wordXNN 0x6 x nn.toNat = formatXNN 0x6#4 x nn := wordXNN_eq_formatXNN 0x6#4 x nn
  refine ⟨?_, exec_ldImm x nn⟩
  rw [hword, decodeWord_of_topNibble_six (topNibble_formatXNN _ _ _), fieldX_formatXNN, fieldNN_formatXNN]

end Sys2Proof.Proofs
end

section
/-! The index register (spec/42_index_memory.md): LD I,nnn (R98). -/

namespace Sys2Proof.Proofs

open Sys2Proof.Machine Sys2Proof.Laws Sys2Proof.Claim

/-- Zero extension keeps the number a 12-bit address stands for. -/
theorem zextAddr_eq_ofNat (nnn : Addr12) : zextAddr nnn = BitVec.ofNat 16 nnn.toNat :=
  (BitVec.ofNat_toNat 16 nnn).symm

/-- Top nibble A decodes to LD I,nnn with the word's own payload (R59). -/
theorem decodeWord_of_topNibble_ten {w : Word} (h : topNibble w = 0xA) : decodeWord w = some (.ldI (fieldNNN w)) := by
  simp only [decodeWord, h]

/-- LD I,nnn sets `I` to the zero-extended address and advances (R98). -/
theorem exec_ldI (nnn : Addr12) (s : State) : exec (.ldI nnn) s = .next (s.setI (zextAddr nnn)).advance := rfl

/-- Settles O26: the payload of the word Annn is `nnn`, and the execution is one write of `I` and the default advance,
where the zero extension that is written has the value of `nnn`. -/
theorem loadIndexWritesI : Obligations.LoadIndexWritesI := by
  unfold Obligations.LoadIndexWritesI
  intro nnn
  have hword : wordNNN 0xA nnn = formatNNN 0xA#4 nnn := wordNNN_eq_formatNNN 0xA#4 nnn
  refine ⟨?_, fun s => ?_⟩
  · rw [hword, decodeWord_of_topNibble_ten (topNibble_formatNNN _ _), fieldNNN_formatNNN]
  · rw [exec_ldI, zextAddr_eq_ofNat]
    rfl

end Sys2Proof.Proofs
end

section
/-! The display (spec/43_display.md): CLS (R106). -/

namespace Sys2Proof.Proofs

open Sys2Proof.Machine Sys2Proof.Laws Sys2Proof.Claim

/-! ### CLS -/

/-- Of top nibble 0, the word 0x00E0 selects CLS (R61). -/
theorem decode0_word_cls : decode0 0x00E0#16 = .cls := if_pos rfl

/-- CLS advances, then clears the display (R106, R130). -/
theorem exec_cls (s : State) : exec .cls s = .next s.advance.clearDisplay := rfl

/-- Settles O34: the execution is the default advance and the `ClearDisplay` effect, which writes the framebuffer and
appends the event, and no pixel of the cleared framebuffer is lit. -/
theorem clsUnlightsEveryPixel : Obligations.ClsUnlightsEveryPixel := by
  unfold Obligations.ClsUnlightsEveryPixel
  refine ⟨?_, fun s => ⟨FrameBuffer.cleared, exec_cls s, pixel_cleared⟩⟩
  rw [decodeWord_of_topNibble_zero rfl, decode0_word_cls]

end Sys2Proof.Proofs
end

section
/-! The beep (spec/60_exceptions.md R158): nothing before step 4 of a frame writes it, and step 4 sets it from the sound
timer. -/

namespace Sys2Proof.Proofs

open Sys2Proof.Machine Sys2Proof.Laws Sys2Proof.Claim

/-! ### Steps 1 to 3 -/

/-- No descriptor of phase 2 writes the beep (R130). -/
theorem dispatch_beep (s : State) (fx : SideEffect) : (s.dispatch fx).out.beep = s.out.beep := by
  cases fx with
  | clearDisplay => rfl
  | waitKeyPress r => rfl
  | draw x0 y0 a n => rcases dispatch_draw_cases s x0 y0 a n with ⟨_, e⟩ | ⟨_, e⟩ <;> rw [e] <;> rfl
  | memDump a bytes =>
    rcases dispatch_memDump_cases s a bytes with ⟨_, e⟩ | ⟨_, e⟩
    · rw [e]
    · rw [e, raise_out]
  | memRead a n => rcases dispatch_memRead_cases s a n with ⟨_, e⟩ | ⟨_, e⟩ <;> rw [e] <;> rfl
  | checkKeyPressed k =>
    change (s.checkKey k true).out.beep = s.out.beep
    rcases checkKey_cases s k true with ⟨_, e⟩ | ⟨_, e⟩ <;> rw [e] <;> rfl
  | checkKeyReleased k =>
    change (s.checkKey k false).out.beep = s.out.beep
    rcases checkKey_cases s k false with ⟨_, e⟩ | ⟨_, e⟩ <;> rw [e] <;> rfl

/-- No instruction writes the beep: those with a descriptor leave it to phase 2, and the others write no output. -/
theorem exec_beep {i : Instr} {s t : State} (h : exec i s = .next t) : t.out.beep = s.out.beep := by
  cases i
  case ret =>
    simp only [exec, execRet] at h
    split at h <;> (injection h with h; subst h; rfl)
  case call =>
    simp only [exec, execCall] at h
    split at h <;> (injection h with h; subst h; rfl)
  case cls | drw | skp | sknp | ldVxK | ldB | ldMemVx | ldVxMem =>
    injection h with h
    subst h
    exact dispatch_beep _ _
  all_goals
    injection h with h
    subst h
    rfl

/-- Fetch, decode and execute leave the beep, a decode error included. -/
theorem executeOne_beep {s t : State} (h : executeOne s = .next t) : t.out.beep = s.out.beep := by
  rcases executeOne_cases s with ⟨_, e⟩ | ⟨_, _, _, e⟩ | ⟨_, _, _, _, e⟩ <;> rw [e] at h
  · injection h with h
    rw [← h, raiseDecode_out]
  · injection h with h
    rw [← h, raiseDecode_out]
  · exact exec_beep h

/-- Step 3 leaves the beep. -/
theorem stepThree_beep {c : Bool} {s t : State} (h : stepThree c s = .next t) : t.out.beep = s.out.beep := by
  rcases stepThree_cases c s with ⟨_, _, e⟩ | ⟨_, e⟩ <;> rw [e] at h
  · exact executeOne_beep h
  · injection h with h
    rw [h]

/-! ### Steps 4 and 5 -/

/-- Step 4 sets the beep from the sound timer when the 60 Hz gate ticks, and else leaves it (R157). -/
theorem stepFour_beep (t : TimeInput) (s : State) :
    (stepFour t s).out.beep = if (pollSixtyGate t s).1 = true then decide (s.st ≠ 0#8) else s.out.beep := by
  unfold stepFour
  by_cases h : (pollSixtyGate t s).1 = true <;> simp [h]

/-- From a silent state, the end of a frame beeps exactly when it runs the 60 Hz step with the sound timer nonzero; a
fatal has suppressed that step (R126, R141). -/
theorem finishFrame_beep_iff {t : TimeInput} {s : State} (h : s.out.beep = false) :
    (finishFrame t s).out.beep = true ↔ s.run = .running ∧ (pollSixtyGate t s).1 = true ∧ s.st ≠ 0#8 := by
  by_cases hrun : s.run = .running
  · rw [finishFrame_running hrun, stepFive_out, stepFour_beep]
    by_cases htick : (pollSixtyGate t s).1 = true <;> simp [hrun, htick, h]
  · simp [finishFrame_ended hrun, hrun, h]

/-! ### A whole frame -/

/-- The five steps beep exactly when step 3 leaves the machine running and step 4 then finds its gate ticking and the
sound timer nonzero: the frame begins silent, and step 3 keeps it so. -/
theorem runFrame_beep_iff {inp : FrameInput} {s t : State} (h : runFrame inp s = .next t) :
    t.out.beep = true ↔ ∃ u, stepThree (beginFrame inp s).1 (beginFrame inp s).2 = .next u ∧ u.run = .running ∧
      (pollSixtyGate inp.time u).1 = true ∧ u.st ≠ 0#8 := by
  obtain ⟨u, hthree, rfl⟩ := onNext_next h
  have hsilent : u.out.beep = false := by rw [stepThree_beep hthree, beginFrame_out]; rfl
  rw [finishFrame_beep_iff hsilent]
  constructor
  · exact fun hu => ⟨u, hthree, hu⟩
  · rintro ⟨u', hthree', hu'⟩
    cases hthree.symm.trans hthree'
    exact hu'

/-- Settles O45: a machine that has ended and an `Exit` frame emit nothing, and any other frame beeps as its step 4
does. -/
theorem beepExactlyWhenSoundTimerNonzero : Obligations.BeepExactlyWhenSoundTimerNonzero := by
  unfold Obligations.BeepExactlyWhenSoundTimerNonzero
  intro s t hstep
  rcases step_cases s with ⟨hrun, e⟩ | ⟨_, hexit, e⟩ | ⟨hrun, hev, e⟩ <;> rw [e] at hstep
  · injection hstep with hstep
    simp [← hstep, hrun, FrameOutput.empty]
  · injection hstep with hstep
    simp [← hstep, hexit, FrameOutput.empty]
  · simp only [runFrame_beep_iff hstep, hrun, hev, ne_eq, not_false_eq_true, true_and]

end Sys2Proof.Proofs
end

section
/-! The decoder and the encoder (spec/30_encoding.md): each undoes the other but for the ignored nibble of 5xy? and 9xy?
(R62), and which words are unknown (R60). -/

namespace Sys2Proof.Proofs

open Sys2Proof.Machine Sys2Proof.Laws Sys2Proof.Claim

/-! ### Decoding an encoded instruction -/

/-- The payload condition of a NOP keeps it apart from the words of CLS and RET (R61). -/
theorem decode0_formatNNN_of_payloadOk {nnn : Addr12} (h : Instr.nopPayloadOk nnn = true) :
    decode0 (formatNNN 0x0#4 nnn) = .nop nnn := by
  simp only [Instr.nopPayloadOk, Bool.and_eq_true, bne_iff_ne] at h
  exact decode0_formatNNN h.1 h.2

/-- The pattern an instruction is encoded by selects that instruction again (R58, R59). -/
theorem decodeWord_encode {i : Instr} (h : i.wf = true) : decodeWord (encode i) = some i := by
  cases i
  case nop nnn => rw [encode, decodeWord_of_topNibble_zero (topNibble_formatNNN _ _), decode0_formatNNN_of_payloadOk h]
  case cls | ret => rfl
  case ldReg | or | and | xor | addReg | sub | shr | subn | shl => simp [encode, decodeWord, decode8]
  case skp | sknp => simp [encode, decodeWord, decodeE]
  case ldVxDt | ldVxK | ldDtVx | ldStVx | addI | ldF | ldB | ldMemVx | ldVxMem => simp [encode, decodeWord, decodeF]
  all_goals simp [encode, decodeWord]

/-- Settles O5: the bytes of the encoding join to its word, which decodes to the instruction. -/
theorem decodeAfterEncodeIsIdentity : Obligations.DecodeAfterEncodeIsIdentity := by
  unfold Obligations.DecodeAfterEncodeIsIdentity
  intro i hwf
  have hword := decodeWord_encode hwf
  refine ⟨hword, fun rest => ?_⟩
  simp [encodeBytes, decode, hword]

/-! ### Encoding a decoded word -/

/-- A word is the `NNN` format of its own fields (R54). -/
theorem formatNNN_fields {op : BitVec 4} {w : Word} (hop : topNibble w = op.toNat) : formatNNN op (fieldNNN w) = w := by
  rw [topNibble_eq] at hop
  apply BitVec.eq_of_toNat_eq
  rw [formatNNN_toNat, fieldNNN_toNat]; omega

/-- A word is the `XNN` format of its own fields (R54). -/
theorem formatXNN_fields {op : BitVec 4} {nn : Byte} {w : Word} (hop : topNibble w = op.toNat)
    (hnn : (fieldNN w).toNat = nn.toNat) : formatXNN op (fieldX w) nn = w := by
  rw [topNibble_eq] at hop
  rw [fieldNN_toNat] at hnn
  apply BitVec.eq_of_toNat_eq
  rw [formatXNN_toNat, fieldX_val]; omega

/-- A word is the `XYN` format of its own fields (R54). -/
theorem formatXYN_fields {op : BitVec 4} {n : Nibble} {w : Word} (hop : topNibble w = op.toNat)
    (hn : (fieldN w).toNat = n.toNat) : formatXYN op (fieldX w) (fieldY w) n = w := by
  rw [topNibble_eq] at hop
  rw [fieldN_toNat] at hn
  apply BitVec.eq_of_toNat_eq
  rw [formatXYN_toNat, fieldX_val, fieldY_val]; omega

/-- A word with its low nibble cleared is the `XYN` format with a low nibble of 0. -/
theorem formatXYN_zero_toNat {op : BitVec 4} {w : Word} (hop : topNibble w = op.toNat) :
    (formatXYN op (fieldX w) (fieldY w) 0x0#4).toNat = w.toNat / 16 * 16 := by
  rw [topNibble_eq] at hop
  rw [formatXYN_toNat, fieldX_val, fieldY_val, ← hop]
  simp only [BitVec.toNat_ofNat]; omega

/-- Under top nibble 0 every word is that of what it decodes to (R61). -/
theorem encode_decode0 {w : Word} (hop : topNibble w = 0x0) :
    (decode0 w).wf = true ∧ encode (decode0 w) = w := by
  have hword : formatNNN 0x0#4 (fieldNNN w) = w := formatNNN_fields hop
  unfold decode0
  split_ifs with hcls hret
  · exact ⟨rfl, hcls.symm⟩
  · exact ⟨rfl, hret.symm⟩
  · refine ⟨?_, hword⟩
    simp only [Instr.wf, Instr.nopPayloadOk, Bool.and_eq_true, bne_iff_ne]
    exact ⟨fun e => hcls (by rw [← hword, e]; rfl), fun e => hret (by rw [← hword, e]; rfl)⟩

/-- Under top nibble 8 a word that decodes is that of what it decodes to. -/
theorem encode_of_decode8 {w : Word} {i : Instr} (hop : topNibble w = 0x8) (h : decode8 w = some i) :
    i.wf = true ∧ encode i = w := by
  unfold decode8 at h
  split at h
  case h_10 => cases h
  all_goals
    rename_i hn
    injection h with h
    subst h
    exact ⟨rfl, formatXYN_fields hop hn⟩

theorem encode_of_decodeE {w : Word} {i : Instr} (hop : topNibble w = 0xE) (h : decodeE w = some i) :
    i.wf = true ∧ encode i = w := by
  unfold decodeE at h
  split at h
  case h_3 => cases h
  all_goals
    rename_i hnn
    injection h with h
    subst h
    exact ⟨rfl, formatXNN_fields hop hnn⟩

theorem encode_of_decodeF {w : Word} {i : Instr} (hop : topNibble w = 0xF) (h : decodeF w = some i) :
    i.wf = true ∧ encode i = w := by
  unfold decodeF at h
  split at h
  case h_10 => cases h
  all_goals
    rename_i hnn
    injection h with h
    subst h
    exact ⟨rfl, formatXNN_fields hop hnn⟩

/-- What decoding a word says of it: it is the word of a well-formed instruction, or that word with another low nibble
under top nibbles 5 and 9 (R62). -/
theorem encode_of_decodeWord {w : Word} {i : Instr} (h : decodeWord w = some i) :
    i.wf = true ∧ (encode i = w ∨
      ((topNibble w = 0x5 ∨ topNibble w = 0x9) ∧ (encode i).toNat = w.toNat / 16 * 16)) := by
  unfold decodeWord at h
  split at h
  all_goals rename_i hop
  case h_1 =>
    injection h with h
    subst h
    obtain ⟨hwf, henc⟩ := encode_decode0 hop
    exact ⟨hwf, .inl henc⟩
  case h_2 | h_3 | h_11 | h_12 =>
    injection h with h
    subst h
    exact ⟨rfl, .inl (formatNNN_fields hop)⟩
  case h_4 | h_5 | h_7 | h_8 | h_13 =>
    injection h with h
    subst h
    exact ⟨rfl, .inl (formatXNN_fields hop rfl)⟩
  case h_6 | h_10 =>
    injection h with h
    subst h
    exact ⟨rfl, .inr ⟨by simp [hop], formatXYN_zero_toNat hop⟩⟩
  case h_14 =>
    injection h with h
    subst h
    exact ⟨rfl, .inl (formatXYN_fields hop rfl)⟩
  case h_9 =>
    obtain ⟨hwf, henc⟩ := encode_of_decode8 hop h
    exact ⟨hwf, .inl henc⟩
  case h_15 =>
    obtain ⟨hwf, henc⟩ := encode_of_decodeE hop h
    exact ⟨hwf, .inl henc⟩
  case h_16 =>
    obtain ⟨hwf, henc⟩ := encode_of_decodeF hop h
    exact ⟨hwf, .inl henc⟩
  case h_17 => cases h

/-- Settles O6: a word that decodes is the one its instruction encodes to, but for the nibble that 5xy? and 9xy?
ignore. -/
theorem encodeAfterDecodeIsCanonical : Obligations.EncodeAfterDecodeIsCanonical := by
  unfold Obligations.EncodeAfterDecodeIsCanonical
  intro w i h
  obtain ⟨hwf, henc | ⟨htop, henc⟩⟩ := encode_of_decodeWord h
  · exact ⟨hwf, .inl (congrArg _ henc)⟩
  · rw [topNibble_eq] at htop
    exact ⟨hwf, .inr ⟨htop, henc⟩⟩

/-! ### Unknown words -/

theorem decode8_eq_none_iff (w : Word) :
    decode8 w = none ↔ w.toNat % 16 ∈ [0x8, 0x9, 0xA, 0xB, 0xC, 0xD, 0xF] := by
  rw [← fieldN_toNat]
  unfold decode8
  split <;> rename_i hn
  case h_10 =>
    have := (fieldN w).isLt
    simp only [true_iff, List.mem_cons, List.not_mem_nil, or_false]
    simp only [imp_false] at *
    omega
  all_goals simp [hn]

theorem decodeE_eq_none_iff (w : Word) : decodeE w = none ↔ w.toNat % 256 ∉ [0x9E, 0xA1] := by
  rw [← fieldNN_toNat]
  unfold decodeE
  split <;> simp_all

theorem decodeF_eq_none_iff (w : Word) :
    decodeF w = none ↔ w.toNat % 256 ∉ [0x07, 0x0A, 0x15, 0x18, 0x1E, 0x29, 0x33, 0x55, 0x65] := by
  rw [← fieldNN_toNat]
  unfold decodeF
  split <;> simp_all

/-- Settles O7: only top nibbles 8, E and F leave words unknown, each by its own selector. -/
theorem unknownWordsAreExactlyThese : Obligations.UnknownWordsAreExactlyThese := by
  unfold Obligations.UnknownWordsAreExactlyThese
  intro w
  rw [← topNibble_eq, ← decode8_eq_none_iff, ← decodeE_eq_none_iff, ← decodeF_eq_none_iff]
  unfold decodeWord
  split <;> rename_i hop
  case h_17 =>
    have hlt : topNibble w < 16 := by
      have := w.isLt
      rw [topNibble_eq]; omega
    simp only [imp_false] at *
    omega
  all_goals simp [hop]

/-- Settles O8: each word by evaluating the decoder on it. -/
theorem decoderReadsTheSpecsWords : Obligations.DecoderReadsTheSpecsWords := by
  unfold Obligations.DecoderReadsTheSpecsWords
  decide

end Sys2Proof.Proofs
end

section
/-! Control transfer (spec/40_control.md R71 to R78): RET, JP, JP V0, CALL and the comparison skips. -/

namespace Sys2Proof.Proofs

open Sys2Proof.Machine Sys2Proof.Laws Sys2Proof.Claim

/-! ### Words of the formats -/

/-- A word of format `NNN` decodes to the instruction that is encoded by its fields. -/
theorem decodeWord_wordNNN (op : BitVec 4) {nnn : Addr12} {i : Instr} (hwf : i.wf = true)
    (henc : encode i = formatNNN op nnn) : decodeWord (wordNNN op.toNat nnn) = some i := by
  rw [wordNNN_eq_formatNNN, ← henc, decodeWord_encode hwf]

/-- A word of format `XNN` decodes to the instruction that is encoded by its fields. -/
theorem decodeWord_wordXNN (op : BitVec 4) (nn : Byte) {x : Reg} {i : Instr} (hwf : i.wf = true)
    (henc : encode i = formatXNN op x nn) : decodeWord (wordXNN op.toNat x nn.toNat) = some i := by
  rw [wordXNN_eq_formatXNN, ← henc, decodeWord_encode hwf]

/-- The word a claim writes as a number is the one the encoder writes from its fields (R54). -/
theorem wordXYN_eq_formatXYN (op : BitVec 4) (x y : Reg) (n : Nibble) :
    wordXYN op.toNat x y n.toNat = formatXYN op x y n := by
  apply BitVec.eq_of_toNat_eq
  rw [formatXYN_toNat, wordXYN, BitVec.toNat_ofNat]
  exact Nat.mod_eq_of_lt (by omega)

/-- A word of format `XYN` decodes to the instruction that is encoded by its fields. -/
theorem decodeWord_wordXYN (op : BitVec 4) (n : Nibble) {x y : Reg} {i : Instr} (hwf : i.wf = true)
    (henc : encode i = formatXYN op x y n) : decodeWord (wordXYN op.toNat x y n.toNat) = some i := by
  rw [wordXYN_eq_formatXYN, ← henc, decodeWord_encode hwf]

/-! ### RET, JP, JP V0, CALL -/

theorem exec_ret_of_cons {s : State} {w : Word} {rest : List Word} (h : s.stack = w :: rest) :
    exec .ret s = .next { s with stack := rest, pc := w + 2#16 } := by
  simp only [exec, execRet, h]
  rfl

theorem exec_ret_of_nil {s : State} (h : s.stack = []) : exec .ret s = .next (s.raise .stackUnderflow) := by
  simp only [exec, execRet, h]

/-- Settles O13: the two shapes of the stack are the two outcomes of RET. -/
theorem retResumesAfterTheCall : Obligations.RetResumesAfterTheCall := by
  unfold Obligations.RetResumesAfterTheCall
  exact ⟨decodeWord_encode (i := .ret) rfl, fun _ _ _ => exec_ret_of_cons, fun _ => exec_ret_of_nil⟩

theorem exec_jp (nnn : Addr12) (s : State) : exec (.jp nnn) s = .next (s.setPc (zextAddr nnn)) := rfl

/-- Settles O14: JP writes `PC` alone, with the value of its payload. -/
theorem jpSetsPcToItsTarget : Obligations.JpSetsPcToItsTarget := by
  unfold Obligations.JpSetsPcToItsTarget
  intro nnn
  refine ⟨decodeWord_wordNNN 0x1#4 rfl rfl, fun s => ?_⟩
  rw [exec_jp, zextAddr_eq_ofNat]
  rfl

/-- Zero extension keeps the number a byte stands for. -/
theorem zextByte_eq_ofNat (b : Byte) : zextByte b = BitVec.ofNat 16 b.toNat := (BitVec.ofNat_toNat 16 b).symm

theorem exec_jpV0 (nnn : Addr12) (s : State) : exec (.jpV0 nnn) s = .next (s.setPc (s.indexedTarget nnn)) := rfl

/-- The target of JP V0 is the sum of its operands, which 16 bits hold (R19, R73). -/
theorem indexedTarget_eq_ofNat (nnn : Addr12) (s : State) :
    s.indexedTarget nnn = BitVec.ofNat 16 (nnn.toNat + (s.reg 0).toNat) := by
  rw [State.indexedTarget, zextAddr_eq_ofNat, zextByte_eq_ofNat, BitVec.ofNat_add]

/-- Settles O15: JP V0 writes `PC` alone, and a 12-bit and an 8-bit number have a sum below 65536. -/
theorem jpV0AddsV0Unmasked : Obligations.JpV0AddsV0Unmasked := by
  unfold Obligations.JpV0AddsV0Unmasked
  intro nnn
  refine ⟨decodeWord_wordNNN 0xB#4 rfl rfl, fun s => ⟨?_, ?_⟩⟩
  · rw [exec_jpV0, indexedTarget_eq_ofNat]
    rfl
  · rw [BitVec.toNat_ofNat]
    exact Nat.mod_eq_of_lt (by omega)

theorem exec_call_of_lt {s : State} (nnn : Addr12) (h : s.stack.length < 16) :
    exec (.call nnn) s = .next ((s.push s.pc).setPc (zextAddr nnn)) := if_pos h

theorem exec_call_of_le {s : State} (nnn : Addr12) (h : 16 ≤ s.stack.length) :
    exec (.call nnn) s = .next (s.raise .stackOverflow) := if_neg (Nat.not_lt.mpr h)

/-- Settles O16: whether a 17th entry would be pushed decides between the two outcomes of CALL. -/
theorem callPushesItsOwnAddress : Obligations.CallPushesItsOwnAddress := by
  unfold Obligations.CallPushesItsOwnAddress
  intro nnn
  refine ⟨decodeWord_wordNNN 0x2#4 rfl rfl, fun s => ⟨fun h => ?_, exec_call_of_le nnn⟩⟩
  rw [exec_call_of_lt nnn h, zextAddr_eq_ofNat]
  rfl

/-! ### Skips -/

theorem skipIf_beq (s : State) (a b : Byte) :
    s.skipIf (a == b) = { s with pc := s.pc + if a = b then 4#16 else 2#16 } := by
  by_cases h : a = b <;> simp [State.skipIf, State.setPc, h]

theorem skipIf_bne (s : State) (a b : Byte) :
    s.skipIf (a != b) = { s with pc := s.pc + if a = b then 2#16 else 4#16 } := by
  by_cases h : a = b <;> simp [State.skipIf, State.setPc, h]

/-- Settles O17: both comparisons are with the immediate, and a skip writes `PC` alone. -/
theorem skipOnImmediateComparison : Obligations.SkipOnImmediateComparison := by
  unfold Obligations.SkipOnImmediateComparison
  intro x nn
  refine ⟨decodeWord_wordXNN 0x3#4 nn rfl rfl, decodeWord_wordXNN 0x4#4 nn rfl rfl, fun s => ⟨?_, ?_⟩⟩
  · exact congrArg Host.Outcome.next (skipIf_beq s (s.reg x) nn)
  · exact congrArg Host.Outcome.next (skipIf_bne s (s.reg x) nn)

/-- Top nibble 5 decodes to SE Vx,Vy whatever the low nibble is (R62). -/
theorem decodeWord_of_topNibble_five {w : Word} (h : topNibble w = 0x5) :
    decodeWord w = some (.seReg (fieldX w) (fieldY w)) := by
  simp only [decodeWord, h]

/-- Top nibble 9 decodes to SNE Vx,Vy whatever the low nibble is (R62). -/
theorem decodeWord_of_topNibble_nine {w : Word} (h : topNibble w = 0x9) :
    decodeWord w = some (.sneReg (fieldX w) (fieldY w)) := by
  simp only [decodeWord, h]

/-- Settles O18: the decoder does not look at the low nibble, and both comparisons are between two registers. -/
theorem skipOnRegisterComparison : Obligations.SkipOnRegisterComparison := by
  unfold Obligations.SkipOnRegisterComparison
  intro x y n
  have hse : wordXYN 0x5 x y n.toNat = formatXYN 0x5#4 x y n := wordXYN_eq_formatXYN 0x5#4 x y n
  have hsne : wordXYN 0x9 x y n.toNat = formatXYN 0x9#4 x y n := wordXYN_eq_formatXYN 0x9#4 x y n
  refine ⟨?_, ?_, fun s => ⟨?_, ?_⟩⟩
  · rw [hse, decodeWord_of_topNibble_five (topNibble_formatXYN _ _ _ _), fieldX_formatXYN, fieldY_formatXYN]
  · rw [hsne, decodeWord_of_topNibble_nine (topNibble_formatXYN _ _ _ _), fieldX_formatXYN, fieldY_formatXYN]
  · exact congrArg Host.Outcome.next (skipIf_beq s (s.reg x) (s.reg y))
  · exact congrArg Host.Outcome.next (skipIf_bne s (s.reg x) (s.reg y))

end Sys2Proof.Proofs
end

section
/-! Registers and ALU (spec/41_alu.md R83 to R96). -/

namespace Sys2Proof.Proofs

open Sys2Proof.Machine Sys2Proof.Laws Sys2Proof.Claim

/-! ### Results and flags as numbers -/

theorem byte_add_eq_ofNat (a b : Byte) : a + b = BitVec.ofNat 8 ((a.toNat + b.toNat) % 256) := by
  apply BitVec.eq_of_toNat_eq
  simp only [BitVec.toNat_add, BitVec.toNat_ofNat]
  omega

theorem byte_sub_eq_ofNat (a b : Byte) : a - b = BitVec.ofNat 8 ((a.toNat + 256 - b.toNat) % 256) := by
  apply BitVec.eq_of_toNat_eq
  simp only [BitVec.toNat_sub, BitVec.toNat_ofNat]
  omega

theorem byte_ushiftRight_one_eq_ofNat (b : Byte) : b >>> 1 = BitVec.ofNat 8 (b.toNat / 2) := by
  apply BitVec.eq_of_toNat_eq
  simp only [BitVec.toNat_ushiftRight, Nat.shiftRight_eq_div_pow, BitVec.toNat_ofNat]
  omega

theorem byte_shiftLeft_one_eq_ofNat (b : Byte) : b <<< 1 = BitVec.ofNat 8 (b.toNat * 2 % 256) := by
  apply BitVec.eq_of_toNat_eq
  simp only [BitVec.toNat_shiftLeft, Nat.shiftLeft_eq, BitVec.toNat_ofNat]
  omega

theorem flagByte_carryOut (a b : Byte) :
    flagByte (carryOut a b) = if a.toNat + b.toNat > 255 then 1#8 else 0#8 := by
  simp [flagByte, carryOut]

theorem flagByte_noBorrow (a b : Byte) : flagByte (noBorrow a b) = if a.toNat ≥ b.toNat then 1#8 else 0#8 := by
  simp [flagByte, noBorrow]

/-- A flag taken from a bit is that bit's value, as a number. -/
theorem flagByte_getLsbD (b : Byte) (k : Nat) : flagByte (b.getLsbD k) = BitVec.ofNat 8 (b.toNat / 2 ^ k % 2) := by
  rw [BitVec.getLsbD, Nat.testBit_eq_decide_div_mod_eq, flagByte]
  rcases Nat.mod_two_eq_zero_or_one (b.toNat / 2 ^ k) with h | h <;> simp [h]

theorem flagByte_bitShiftedOutRight (b : Byte) : flagByte (bitShiftedOutRight b) = BitVec.ofNat 8 (b.toNat % 2) := by
  rw [bitShiftedOutRight, flagByte_getLsbD, Nat.pow_zero, Nat.div_one]

theorem flagByte_bitShiftedOutLeft (b : Byte) : flagByte (bitShiftedOutLeft b) = BitVec.ofNat 8 (b.toNat / 128) := by
  rw [bitShiftedOutLeft, flagByte_getLsbD, Nat.mod_eq_of_lt (by omega)]
  rfl

/-! ### ADD Vx,nn, the move and the logic -/

theorem exec_addImm (x : Reg) (nn : Byte) (s : State) :
    exec (.addImm x nn) s = .next (s.setReg x (s.reg x + nn)).advance := rfl

/-- Settles O20: one register write and the default advance, with no case for `VF`. -/
theorem addImmediateWrapsWithoutFlag : Obligations.AddImmediateWrapsWithoutFlag := by
  unfold Obligations.AddImmediateWrapsWithoutFlag
  intro x nn
  refine ⟨decodeWord_wordXNN 0x7#4 nn rfl rfl, fun s => ?_⟩
  rw [exec_addImm, byte_add_eq_ofNat]
  rfl

/-- Settles O21: each of the four writes one register, whose bits are those of the operands joined one by one. -/
theorem moveAndLogicLeaveTheFlag : Obligations.MoveAndLogicLeaveTheFlag := by
  unfold Obligations.MoveAndLogicLeaveTheFlag
  intro x y
  refine ⟨decodeWord_wordXYN 0x8#4 0x0#4 rfl rfl, decodeWord_wordXYN 0x8#4 0x1#4 rfl rfl,
    decodeWord_wordXYN 0x8#4 0x2#4 rfl rfl, decodeWord_wordXYN 0x8#4 0x3#4 rfl rfl, fun s => ⟨rfl, ?_, ?_, ?_⟩⟩
  · exact ⟨s.reg x ||| s.reg y, rfl, fun _ => BitVec.getLsbD_or⟩
  · exact ⟨s.reg x &&& s.reg y, rfl, fun _ => BitVec.getLsbD_and⟩
  · exact ⟨s.reg x ^^^ s.reg y, rfl, fun _ => BitVec.getLsbD_xor⟩

/-! ### The instructions that write `VF` -/

theorem exec_addReg (x y : Reg) (s : State) : exec (.addReg x y) s =
    .next (s.setRegAndFlag x (s.reg x + s.reg y) (carryOut (s.reg x) (s.reg y))).advance := rfl

/-- Settles O22: the sum, then the carry, each as a number. -/
theorem addRegistersGivesSumAndCarry : Obligations.AddRegistersGivesSumAndCarry := by
  unfold Obligations.AddRegistersGivesSumAndCarry
  intro x y
  refine ⟨decodeWord_wordXYN 0x8#4 0x4#4 rfl rfl, fun s => ?_⟩
  rw [exec_addReg, byte_add_eq_ofNat, State.setRegAndFlag, State.setFlag, flagByte_carryOut]
  rfl

theorem exec_sub (x y : Reg) (s : State) : exec (.sub x y) s =
    .next (s.setRegAndFlag x (s.reg x - s.reg y) (noBorrow (s.reg x) (s.reg y))).advance := rfl

theorem exec_subn (x y : Reg) (s : State) : exec (.subn x y) s =
    .next (s.setRegAndFlag x (s.reg y - s.reg x) (noBorrow (s.reg y) (s.reg x))).advance := rfl

/-- Settles O23: the difference, then the not-borrow, each as a number, in both operand orders. -/
theorem subtractionsGiveDifferenceAndNotBorrow : Obligations.SubtractionsGiveDifferenceAndNotBorrow := by
  unfold Obligations.SubtractionsGiveDifferenceAndNotBorrow
  intro x y
  refine ⟨decodeWord_wordXYN 0x8#4 0x5#4 rfl rfl, decodeWord_wordXYN 0x8#4 0x7#4 rfl rfl, fun s => ⟨?_, ?_⟩⟩
  · rw [exec_sub, byte_sub_eq_ofNat, State.setRegAndFlag, State.setFlag, flagByte_noBorrow]
    rfl
  · rw [exec_subn, byte_sub_eq_ofNat, State.setRegAndFlag, State.setFlag, flagByte_noBorrow]
    rfl

theorem exec_shr (x y : Reg) (s : State) : exec (.shr x y) s =
    .next (s.setRegAndFlag x (s.reg y >>> 1) (bitShiftedOutRight (s.reg y))).advance := rfl

theorem exec_shl (x y : Reg) (s : State) : exec (.shl x y) s =
    .next (s.setRegAndFlag x (s.reg y <<< 1) (bitShiftedOutLeft (s.reg y))).advance := rfl

/-- Settles O24: the shifted value, then the bit that was dropped, each as a number. -/
theorem shiftsReadVyAndWriteVx : Obligations.ShiftsReadVyAndWriteVx := by
  unfold Obligations.ShiftsReadVyAndWriteVx
  intro x y
  refine ⟨decodeWord_wordXYN 0x8#4 0x6#4 rfl rfl, decodeWord_wordXYN 0x8#4 0xE#4 rfl rfl, fun s => ⟨?_, ?_⟩⟩
  · rw [exec_shr, byte_ushiftRight_one_eq_ofNat, State.setRegAndFlag, State.setFlag, flagByte_bitShiftedOutRight]
    rfl
  · rw [exec_shl, byte_shiftLeft_one_eq_ofNat, State.setRegAndFlag, State.setFlag, flagByte_bitShiftedOutLeft]
    rfl

/-! ### RND -/

theorem exec_rnd (x : Reg) (nn : Byte) (s : State) :
    exec (.rnd x nn) s = .next (s.setReg x (s.randomByte &&& nn)).advance := rfl

theorem frameInput_of_cons {s : State} {inp : FrameInput} {rest : List FrameInput} (h : s.inputs = inp :: rest) :
    s.frameInput = inp := by
  simp only [State.frameInput, h]

theorem frameInput_of_nil {s : State} (h : s.inputs = []) : s.frameInput = Config.freeInput s.frame := by
  simp only [State.frameInput, h]

/-- Settles O25: the byte that RND reads is that of the first input listed, or of the free input where none is. -/
theorem rndAndsTheDrawnByte : Obligations.RndAndsTheDrawnByte := by
  unfold Obligations.RndAndsTheDrawnByte
  intro x nn
  refine ⟨decodeWord_wordXNN 0xC#4 nn rfl rfl, fun s inp rest h => ?_, fun s h => ?_⟩
  · rw [exec_rnd, State.randomByte, frameInput_of_cons h]
    rfl
  · rw [exec_rnd, State.randomByte, frameInput_of_nil h]
    rfl

end Sys2Proof.Proofs
end

section
/-! The index register and memory (spec/42_index_memory.md R99 to R104). -/

namespace Sys2Proof.Proofs

open Sys2Proof.Machine Sys2Proof.Laws Sys2Proof.Claim

/-! ### ADD I,Vx and LD F,Vx -/

theorem exec_addI (x : Reg) (s : State) :
    exec (.addI x) s = .next (s.setI (s.i + zextByte (s.reg x))).advance := rfl

/-- A 16-bit sum as a number. -/
theorem word_add_ofNat (w : Word) (n : Nat) : w + BitVec.ofNat 16 n = BitVec.ofNat 16 ((w.toNat + n) % 65536) := by
  apply BitVec.eq_of_toNat_eq
  simp only [BitVec.toNat_add, BitVec.toNat_ofNat]
  omega

/-- Settles O27: one write of `I`, the 16-bit sum, and the default advance. -/
theorem addToIndexWrapsWithoutFlag : Obligations.AddToIndexWrapsWithoutFlag := by
  unfold Obligations.AddToIndexWrapsWithoutFlag
  intro x
  refine ⟨decodeWord_wordXNN 0xF#4 0x1E#8 rfl rfl, fun s => ?_⟩
  rw [exec_addI, zextByte_eq_ofNat, word_add_ofNat]
  rfl

theorem exec_ldF (x : Reg) (s : State) : exec (.ldF x) s = .next (s.setI (glyphAddr (s.reg x))).advance := rfl

/-- The glyph of a digit is five bytes long and the font begins at 0 (R100). -/
theorem glyphAddr_eq_ofNat (b : Byte) : glyphAddr b = BitVec.ofNat 16 (5 * b.toNat) := by
  rw [glyphAddr, zextByte_eq_ofNat, BitVec.ofNat_mul]
  exact BitVec.zero_add _

/-- Settles O28: `I` is written with five times the register, which 16 bits hold for every byte. -/
theorem fontLookupMultipliesByFive : Obligations.FontLookupMultipliesByFive := by
  unfold Obligations.FontLookupMultipliesByFive
  intro x
  refine ⟨decodeWord_wordXNN 0xF#4 0x29#8 rfl rfl, fun s => ⟨?_, ?_⟩⟩
  · rw [exec_ldF, glyphAddr_eq_ofNat]
    rfl
  · rw [BitVec.toNat_ofNat]
    exact Nat.mod_eq_of_lt (by omega)

/-! ### LD B,Vx -/

theorem exec_ldB (x : Reg) (s : State) :
    exec (.ldB x) s = .next (s.advance.dispatch (.memDump s.i.toNat (bcdDigits (s.reg x)))) := rfl

/-- A memory dump that fits in memory writes its bytes and nothing else (R43). -/
theorem dispatch_memDump_of_le {s : State} {a : Nat} {bytes : List Byte} (h : a + bytes.length ≤ 4096) :
    s.dispatch (.memDump a bytes) = { s with mem := Memory.writeBytes s.mem a bytes } := by
  rcases dispatch_memDump_cases s a bytes with ⟨_, e⟩ | ⟨hover, _⟩
  · exact e
  · omega

/-- A memory dump that would pass the end of memory is fatal and writes nothing (R43, R147). -/
theorem dispatch_memDump_of_lt {s : State} {a : Nat} {bytes : List Byte} (h : 4096 < a + bytes.length) :
    s.dispatch (.memDump a bytes) = s.raise .memoryBounds := by
  rcases dispatch_memDump_cases s a bytes with ⟨hfit, _⟩ | ⟨_, e⟩
  · omega
  · exact e

/-- The digits of a byte, hundreds first, as numbers (R101). -/
theorem bcdDigits_getD_toNat (b : Byte) :
    ((bcdDigits b).getD 0 0#8).toNat = b.toNat / 100 ∧ ((bcdDigits b).getD 1 0#8).toNat = b.toNat / 10 % 10 ∧
      ((bcdDigits b).getD 2 0#8).toNat = b.toNat % 10 := by
  have := b.isLt
  simp only [bcdDigits, List.getD_cons_zero, List.getD_cons_succ, BitVec.toNat_ofNat]
  omega

/-- A run of bytes that fits, written and read back: byte `k` of it stands at its address. -/
theorem read_writeBytes_getD {m : Memory} {a k : Nat} {bytes : List Byte} (hwf : Memory.wf m = true)
    (hfit : a + bytes.length ≤ 4096) (hk : k < bytes.length) :
    Memory.read (Memory.writeBytes m a bytes) (a + k) = bytes.getD k 0#8 := by
  rw [read_writeBytes hfit hwf, if_pos (by omega), Nat.add_sub_cancel_left]

/-- Settles O29: the transfer fits or it is fatal; where it fits, the three digits are what memory reads as there. -/
theorem bcdStoreWritesThreeDigits : Obligations.BcdStoreWritesThreeDigits := by
  unfold Obligations.BcdStoreWritesThreeDigits
  intro x
  refine ⟨decodeWord_wordXNN 0xF#4 0x33#8 rfl rfl, fun s => ⟨fun hwf hfit => ?_, fun hover => ?_⟩⟩
  · obtain ⟨hhundreds, htens, hones⟩ := bcdDigits_getD_toNat (s.reg x)
    have hlen : s.i.toNat + (bcdDigits (s.reg x)).length ≤ Config.memSize := hfit
    have hread (k : Nat) (hk : k < 3) := congrArg BitVec.toNat (read_writeBytes_getD hwf hlen hk)
    refine ⟨Memory.writeBytes s.mem s.i.toNat (bcdDigits (s.reg x)), ?_, wf_writeBytes hlen hwf,
      (hread 0 (by decide)).trans hhundreds, (hread 1 (by decide)).trans htens, (hread 2 (by decide)).trans hones,
      fun a ha => (read_writeBytes hlen hwf a).trans (if_neg ha)⟩
    rw [exec_ldB, dispatch_memDump_of_le hlen]
    rfl
  · rw [exec_ldB, dispatch_memDump_of_lt hover]
    rfl

/-! ### The bulk transfers -/

/-- What a bulk transfer leaves in `I`, as a number (R102, R103). -/
theorem iAfterBulk_eq_ofNat (s : State) (x : Reg) :
    s.iAfterBulk x = BitVec.ofNat 16 ((s.i.toNat + x.val + 1) % 65536) := word_add_ofNat s.i (x.val + 1)

theorem exec_ldMemVx (x : Reg) (s : State) : exec (.ldMemVx x) s =
    .next ((s.setI (s.iAfterBulk x)).advance.dispatch (.memDump s.i.toNat (s.regsUpTo x))) := rfl

/-- LD [I],Vx where the block fits in memory (R102). -/
theorem exec_ldMemVx_of_le {x : Reg} {s : State} (h : s.i.toNat + x.val + 1 ≤ 4096) :
    exec (.ldMemVx x) s = .next { s with
      i := s.iAfterBulk x, pc := s.pc + 2#16, mem := Memory.writeBytes s.mem s.i.toNat (s.regsUpTo x) } := by
  rw [exec_ldMemVx, dispatch_memDump_of_le (by rw [length_regsUpTo]; exact h)]
  rfl

/-- Byte `k` of the block is `V[k]`, within the block (R102). -/
theorem regsUpTo_getD (s : State) {x k : Reg} (h : k.val ≤ x.val) : (s.regsUpTo x).getD k.val 0#8 = s.reg k := by
  have hk : k.val < (s.regsUpTo x).length := by rw [length_regsUpTo]; omega
  rw [List.getD_eq_getElem _ _ hk, regsUpTo_getElem]

/-- A stored block holds `V[k]` at the `k`-th address (R102). -/
theorem read_writeBytes_regsUpTo {s : State} {x k : Reg} (hwf : Memory.wf s.mem = true)
    (hfit : s.i.toNat + x.val + 1 ≤ 4096) (hk : k.val ≤ x.val) :
    Memory.read (Memory.writeBytes s.mem s.i.toNat (s.regsUpTo x)) (s.i.toNat + k.val) = s.reg k := by
  rw [read_writeBytes_getD hwf (by rw [length_regsUpTo]; exact hfit) (by rw [length_regsUpTo]; omega),
    regsUpTo_getD s hk]

/-- Settles O30: the transfer fits or it is fatal; where it fits, the registers are what memory reads as there. -/
theorem bulkStoreWritesV0ToVx : Obligations.BulkStoreWritesV0ToVx := by
  unfold Obligations.BulkStoreWritesV0ToVx
  intro x
  refine ⟨decodeWord_wordXNN 0xF#4 0x55#8 rfl rfl, fun s => ⟨fun hwf hfit => ?_, fun hover => ?_⟩⟩
  · have hlen : s.i.toNat + (s.regsUpTo x).length ≤ Config.memSize := by rw [length_regsUpTo]; exact hfit
    refine ⟨Memory.writeBytes s.mem s.i.toNat (s.regsUpTo x), ?_, wf_writeBytes hlen hwf,
      fun k hk => read_writeBytes_regsUpTo hwf hfit hk, fun a ha => ?_⟩
    · rw [exec_ldMemVx_of_le hfit, iAfterBulk_eq_ofNat]
    · rw [read_writeBytes hlen hwf, if_neg (by rw [length_regsUpTo]; exact ha)]
  · rw [exec_ldMemVx, dispatch_memDump_of_lt (by rw [length_regsUpTo]; exact hover), iAfterBulk_eq_ofNat]
    rfl

theorem exec_ldVxMem (x : Reg) (s : State) : exec (.ldVxMem x) s =
    .next ((s.setI (s.iAfterBulk x)).advance.dispatch (.memRead s.i.toNat (x.val + 1))) := rfl

/-- LD Vx,[I] where the block fits in memory (R103). -/
theorem exec_ldVxMem_of_le {x : Reg} {s : State} (h : s.i.toNat + x.val + 1 ≤ 4096) :
    exec (.ldVxMem x) s = .next
      ((s.setI (s.iAfterBulk x)).advance.loadRegs (Memory.readBytes s.mem s.i.toNat (x.val + 1))) := by
  rw [exec_ldVxMem]
  rcases dispatch_memRead_cases (s.setI (s.iAfterBulk x)).advance s.i.toNat (x.val + 1) with ⟨_, e⟩ | ⟨hover, _⟩
  · rw [e]
    rfl
  · omega

/-- LD Vx,[I] where the block passes the end of memory (R147). -/
theorem exec_ldVxMem_of_lt {x : Reg} {s : State} (h : 4096 < s.i.toNat + x.val + 1) :
    exec (.ldVxMem x) s = .next ((s.setI (s.iAfterBulk x)).advance.raise .memoryBounds) := by
  rw [exec_ldVxMem]
  rcases dispatch_memRead_cases (s.setI (s.iAfterBulk x)).advance s.i.toNat (x.val + 1) with ⟨hfit, _⟩ | ⟨_, e⟩
  · omega
  · rw [e]

/-- The registers after loading a block of `x + 1` bytes from address `a` (R103). -/
theorem loadRegs_readBytes_reg (s : State) (m : Memory) (a : Nat) (x k : Reg) :
    (s.loadRegs (Memory.readBytes m a (x.val + 1))).reg k =
      if k.val ≤ x.val then Memory.read m (a + k.val) else s.reg k := by
  rw [loadRegs_reg, readBytes_getD]
  simp only [Nat.lt_succ_iff]

/-- Settles O31: the transfer fits or it is fatal; where it fits, each register is the byte at its address, or beyond
`x` as before. -/
theorem bulkLoadReadsV0ToVx : Obligations.BulkLoadReadsV0ToVx := by
  unfold Obligations.BulkLoadReadsV0ToVx
  intro x
  refine ⟨decodeWord_wordXNN 0xF#4 0x65#8 rfl rfl, fun s => ⟨fun hfit => ?_, fun hover => ?_⟩⟩
  · refine ⟨(s.loadRegs (Memory.readBytes s.mem s.i.toNat (x.val + 1))).v, ?_, fun k => ?_⟩
    · rw [exec_ldVxMem_of_le hfit, iAfterBulk_eq_ofNat]
      rfl
    · exact loadRegs_readBytes_reg s s.mem s.i.toNat x k
  · rw [exec_ldVxMem_of_lt hover, iAfterBulk_eq_ofNat]
    rfl

/-- Settles O32: the load reads the block that the store has written at the same address. -/
theorem bulkTransferRoundTrip : Obligations.BulkTransferRoundTrip := by
  unfold Obligations.BulkTransferRoundTrip
  intro k s t u hwf hfit hstore hmem hi
  rw [exec_ldMemVx_of_le hfit] at hstore
  injection hstore with hstore
  subst hstore
  refine ⟨_, exec_ldVxMem_of_le (hi.symm ▸ hfit), fun r hr => ?_⟩
  refine (loadRegs_readBytes_reg _ _ _ k r).trans ?_
  rw [if_pos hr, hmem, hi]
  exact read_writeBytes_regsUpTo hwf hfit hr

/-- A word is fetched exactly when it is the one at `PC` and the fetch is in range. -/
theorem fetch_eq_some_iff {s : State} {w : Word} : s.fetch = some w ↔ s.pc.toNat < 0x0FFF ∧ fetchedWord s = w := by
  rcases fetch_cases s with ⟨hpc, e⟩ | ⟨hpc, e⟩ <;> rw [e]
  · exact ⟨fun h => ⟨hpc, Option.some.inj h⟩, fun h => congrArg some h.2⟩
  · exact ⟨nofun, fun h => absurd h.1 (Nat.not_lt.mpr hpc)⟩

/-- A fetch in range answers the word at `PC` (R41, R42). -/
theorem fetch_of_lt {s : State} (h : s.pc.toNat < 0x0FFF) : s.fetch = some (fetchedWord s) :=
  fetch_eq_some_iff.mpr ⟨h, rfl⟩

/-- Settles O33: the next fetch reads the first two bytes of the block, which are `V[0]` and `V[1]`. -/
theorem storeIsSeenByTheNextFetch : Obligations.StoreIsSeenByTheNextFetch := by
  unfold Obligations.StoreIsSeenByTheNextFetch
  intro x s t hwf hx hi hfit hstore
  rw [exec_ldMemVx_of_le hfit] at hstore
  injection hstore with hstore
  have hpc : t.pc = s.i := by rw [← hstore, hi]
  have hmem : t.mem = Memory.writeBytes s.mem s.i.toNat (s.regsUpTo x) := by rw [← hstore]
  have hhigh : Memory.read t.mem s.i.toNat = s.reg 0 :=
    hmem ▸ read_writeBytes_regsUpTo (k := 0) hwf hfit (Nat.zero_le _)
  have hlow : Memory.read t.mem (s.i.toNat + 1) = s.reg 1 := hmem ▸ read_writeBytes_regsUpTo (k := 1) hwf hfit hx
  rw [fetch_of_lt (by rw [hpc]; omega), fetchedWord, hpc, hhigh, hlow]
  rfl

end Sys2Proof.Proofs
end

section
/-! Keypad and timers (spec/44_keypad_timer_ops.md R116 to R122). -/

namespace Sys2Proof.Proofs

open Sys2Proof.Machine Sys2Proof.Laws Sys2Proof.Claim

theorem exec_skp (x : Reg) (s : State) : exec (.skp x) s = .next (s.checkKey (s.reg x) true) := rfl

theorem exec_sknp (x : Reg) (s : State) : exec (.sknp x) s = .next (s.checkKey (s.reg x) false) := rfl

/-- A key check on a key code finishes the advance (R116, R117). -/
theorem checkKey_of_eq {s : State} {b : Byte} {k : KeyCode} (want : Bool) (h : b.toNat = k.val) :
    s.checkKey b want = s.skipIf (s.keyPressed k == want) := by
  rcases checkKey_cases s b want with ⟨hlt, e⟩ | ⟨hge, _⟩
  · rw [e, show (⟨b.toNat, hlt⟩ : KeyCode) = k from Fin.ext h]
  · omega

/-- A key check on a code above 15 is fatal (R122). -/
theorem checkKey_of_lt {s : State} {b : Byte} (want : Bool) (h : 15 < b.toNat) :
    s.checkKey b want = s.raise .keyIndex := by
  rcases checkKey_cases s b want with ⟨hlt, _⟩ | ⟨_, e⟩
  · omega
  · exact e

/-- Settles O39: the check reads the flag of the register's code, or is fatal. -/
theorem keySkipsReadTheLatch : Obligations.KeySkipsReadTheLatch := by
  unfold Obligations.KeySkipsReadTheLatch
  intro x
  refine ⟨decodeWord_wordXNN 0xE#4 0x9E#8 rfl rfl, decodeWord_wordXNN 0xE#4 0xA1#8 rfl rfl,
    fun s => ⟨fun k hk => ⟨?_, ?_⟩, fun hx => ⟨?_, ?_⟩⟩⟩
  · rw [exec_skp, checkKey_of_eq (b := s.reg x) true hk]
    cases h : s.key[k.val] <;> simp [State.skipIf, State.setPc, State.keyPressed, h]
  · rw [exec_sknp, checkKey_of_eq (b := s.reg x) false hk]
    cases h : s.key[k.val] <;> simp [State.skipIf, State.setPc, State.keyPressed, h]
  · rw [exec_skp, checkKey_of_lt (b := s.reg x) true hx]
    rfl
  · rw [exec_sknp, checkKey_of_lt (b := s.reg x) false hx]
    rfl

theorem exec_ldVxK (x : Reg) (s : State) :
    exec (.ldVxK x) s = .next { s with pc := s.pc + 2#16, ms := .waitKeyPress x } := rfl

/-- Settles O40: the issue advances and sets `MS`; no register is written before the wake. -/
theorem keyWaitSuspendsExecution : Obligations.KeyWaitSuspendsExecution := by
  unfold Obligations.KeyWaitSuspendsExecution
  exact fun x => ⟨decodeWord_wordXNN 0xF#4 0x0A#8 rfl rfl, exec_ldVxK x⟩

theorem exec_ldVxDt (x : Reg) (s : State) : exec (.ldVxDt x) s = .next (s.setReg x s.dt).advance := rfl

theorem exec_ldDtVx (x : Reg) (s : State) : exec (.ldDtVx x) s = .next { s with dt := s.reg x }.advance := rfl

theorem exec_ldStVx (x : Reg) (s : State) : exec (.ldStVx x) s = .next { s with st := s.reg x }.advance := rfl

/-- Settles O41: each of the three writes one byte and advances. -/
theorem timerMovesCopyOneByte : Obligations.TimerMovesCopyOneByte := by
  unfold Obligations.TimerMovesCopyOneByte
  exact fun x => ⟨decodeWord_wordXNN 0xF#4 0x07#8 rfl rfl, decodeWord_wordXNN 0xF#4 0x15#8 rfl rfl,
    decodeWord_wordXNN 0xF#4 0x18#8 rfl rfl, fun s => ⟨exec_ldVxDt x s, exec_ldDtVx x s, exec_ldStVx x s⟩⟩

end Sys2Proof.Proofs
end

section
/-! The frame as a whole (spec/45_frame_sequencer.md R126): what its steps before and after step 3 do, in the fields the
claims name. -/

namespace Sys2Proof.Proofs

open Sys2Proof.Machine Sys2Proof.Laws Sys2Proof.Claim

/-! ### Every instruction and every frame answers a next state -/

theorem exec_total (i : Instr) (s : State) : ∃ t, exec i s = .next t := by
  cases i
  case ret =>
    cases h : s.stack with
    | nil => exact ⟨_, exec_ret_of_nil h⟩
    | cons w rest => exact ⟨_, exec_ret_of_cons h⟩
  case call nnn =>
    rcases Nat.lt_or_ge s.stack.length 16 with h | h
    · exact ⟨_, exec_call_of_lt nnn h⟩
    · exact ⟨_, exec_call_of_le nnn h⟩
  all_goals exact ⟨_, rfl⟩

theorem executeOne_total (s : State) : ∃ t, executeOne s = .next t := by
  rcases executeOne_cases s with ⟨_, e⟩ | ⟨_, _, _, e⟩ | ⟨_, i, _, _, e⟩
  · exact ⟨_, e⟩
  · exact ⟨_, e⟩
  · exact e ▸ exec_total i s

theorem stepThree_total (c : Bool) (s : State) : ∃ t, stepThree c s = .next t := by
  rcases stepThree_cases c s with ⟨_, _, e⟩ | ⟨_, e⟩
  · exact e ▸ executeOne_total s
  · exact ⟨_, e⟩

/-- A frame of a running machine without `Exit` answers what steps 4 and 5 make of the state step 3 leaves. -/
theorem step_of_stepThree {s u : State} (hrun : s.run = .running) (hev : s.frameInput.ev ≠ .exit)
    (h : stepThree (beginFrame s.frameInput s).1 (beginFrame s.frameInput s).2 = .next u) :
    step s = .next (finishFrame s.frameInput.time u) := by
  rcases step_cases s with ⟨hend, _⟩ | ⟨_, hexit, _⟩ | ⟨_, _, e⟩
  · exact absurd hrun hend
  · exact absurd hexit hev
  · rw [e, runFrame, h]
    rfl

theorem step_total (s : State) : ∃ t, step s = .next t := by
  rcases step_cases s with ⟨_, e⟩ | ⟨_, _, e⟩ | ⟨hrun, hev, _⟩
  · exact ⟨_, e⟩
  · exact ⟨_, e⟩
  · obtain ⟨u, hu⟩ := stepThree_total (beginFrame s.frameInput s).1 (beginFrame s.frameInput s).2
    exact ⟨_, step_of_stepThree hrun hev hu⟩

/-- Settles O11: the stack decides RET and CALL, every other instruction answers by definition, and the frame follows
its step 3. -/
theorem everyFrameAnswersANextState : Obligations.EveryFrameAnswersANextState := by
  unfold Obligations.EveryFrameAnswersANextState
  exact ⟨exec_total, step_total⟩

/-! ### Steps 1 and 2, and the poll of the CPU gate -/

/-- The poll of the CPU gate after the clock has been read. -/
theorem pollCpuGate_startFrame (s : State) :
    pollCpuGate s.frameInput.time (startFrame s.frameInput s) = (cpuTicks s, timeRead s) := by
  unfold pollCpuGate startFrame cpuTicks timeRead baselineAfter frameTime cpuTicks
  cases s.frameInput.time with
  | elapsed d => simp [gateTick_eq, TimeInput.now]
  | ticks cpu t60 => simp [TimeInput.now]

/-- The poll of the CPU gate does not see the latch, the registers or `MS`, and leaves them. -/
theorem pollCpuGate_with (t : TimeInput) (s : State) (key : Vector Bool 16) (v : Vector Byte 16) (ms : MachineState) :
    pollCpuGate t { s with key := key, v := v, ms := ms } =
      ((pollCpuGate t s).1, { (pollCpuGate t s).2 with key := key, v := v, ms := ms }) := by
  cases t <;> rfl

/-- Step 3 begins with the gate's answer in the state the claims write out (R126). -/
theorem beginFrame_eq (s : State) : beginFrame s.frameInput s = (cpuTicks s, inputTaken s) := by
  have hpoll := pollCpuGate_with s.frameInput.time (startFrame s.frameInput s)
  rw [pollCpuGate_startFrame] at hpoll
  unfold beginFrame inputTaken
  cases s.frameInput.ev with
  | none => cases hms : s.ms <;> simp only [latchKey, wake, startFrame_ms, hms, pollCpuGate_startFrame]
  | exit => cases hms : s.ms <;> simp only [latchKey, wake, startFrame_ms, hms, pollCpuGate_startFrame]
  | key k =>
    cases hms : s.ms with
    | normal =>
      simp only [latchKey, wake, startFrame_ms, hms]
      exact hms ▸ hpoll (s.key.set k.val true) s.v s.ms
    | waitKeyPress r =>
      simp only [latchKey, wake, startFrame_ms, hms]
      exact hpoll (s.key.set k.val true) (s.v.set r.val (BitVec.ofNat 8 k.val)) .normal

/-! ### Steps 4 and 5 -/

/-- Counting down is subtraction, which stops at zero (R157). -/
theorem countDown_eq_countedDown (t : Byte) : countDown t = countedDown t := by
  unfold countDown countedDown
  split_ifs with h
  · rw [h]
    rfl
  · have hpos : t.toNat ≠ 0 := fun e => h (BitVec.eq_of_toNat_eq e)
    apply BitVec.eq_of_toNat_eq
    simp only [BitVec.toNat_sub, BitVec.toNat_ofNat]
    omega

/-- The poll of the 60 Hz gate in a state that holds the frame's time and the baseline the frame began with. -/
theorem pollSixtyGate_eq {s u : State} (hclock : u.clock = frameTime s) (hgate : u.gate60 = s.gate60) :
    pollSixtyGate s.frameInput.time u =
      (sixtyTicks s, { u with gate60 := baselineAfter s (sixtyTicks s) s.gate60 }) := by
  unfold frameTime at hclock
  unfold pollSixtyGate sixtyTicks baselineAfter frameTime
  cases ht : s.frameInput.time with
  | elapsed d =>
    rw [ht] at hclock
    simp [gateTick_eq, hclock, hgate]
  | ticks cpu t60 => simp [← hgate]

/-- Steps 4 and 5 are what the claims write out, from a state that has not beeped (R131, R132). -/
theorem stepFive_stepFour_eq {s u : State} (hclock : u.clock = frameTime s) (hgate : u.gate60 = s.gate60)
    (hbeep : u.out.beep = false) : stepFive (stepFour s.frameInput.time u) = frameEnd s u := by
  simp only [stepFour, pollSixtyGate_eq hclock hgate]
  cases hsixty : sixtyTicks s with
  | true => simp [frameEnd, hsixty, stepFive, timerStep, countDown_eq_countedDown]
  | false =>
    have hout : u.out = { u.out with beep := false } := by rw [← hbeep]
    simp [frameEnd, hsixty, stepFive, ← hout]

/-! ### The frame between its steps 3 and 5 -/

theorem inputTaken_same (s : State) : SameBefore s (inputTaken s) := by
  have h := beginFrame_same s.frameInput s
  rwa [beginFrame_eq] at h

theorem inputTaken_out (s : State) : (inputTaken s).out = FrameOutput.empty := by
  have h := beginFrame_out s.frameInput s
  rwa [beginFrame_eq] at h

theorem inputTaken_clock (s : State) : (inputTaken s).clock = frameTime s := by
  unfold inputTaken
  split <;> rfl

theorem inputTaken_gateCpu (s : State) : (inputTaken s).gateCpu = baselineAfter s (cpuTicks s) s.gateCpu := by
  unfold inputTaken
  split <;> rfl

/-- Fetch, decode and execute leave alone what only the frame sequencer writes. -/
theorem executeOne_sameEnv {s t : State} (h : executeOne s = .next t) : SameEnv s t := by
  rcases executeOne_cases s with ⟨_, e⟩ | ⟨_, _, _, e⟩ | ⟨_, _, _, _, e⟩ <;> rw [e] at h
  · injection h with h
    subst h
    exact ⟨rfl, rfl, rfl, rfl, rfl, rfl⟩
  · injection h with h
    subst h
    exact ⟨rfl, rfl, rfl, rfl, rfl, rfl⟩
  · exact exec_sameEnv h

theorem stepThree_sameEnv {c : Bool} {s t : State} (h : stepThree c s = .next t) : SameEnv s t := by
  rcases stepThree_cases c s with ⟨_, _, e⟩ | ⟨_, e⟩ <;> rw [e] at h
  · exact executeOne_sameEnv h
  · injection h with h
    subst h
    exact ⟨rfl, rfl, rfl, rfl, rfl, rfl⟩

/-- What the rest of the frame of `s` makes of the state `u` that its step 3 leaves: steps 4 and 5, or nothing after a
fatal (R126, R141). -/
def frameAfter (s u : State) : State := if u.run = .running then frameEnd s u else u

theorem frameAfter_running {s u : State} (h : u.run = .running) : frameAfter s u = frameEnd s u := if_pos h

theorem frameAfter_ended {s u : State} (h : u.run ≠ .running) : frameAfter s u = u := if_neg h

/-- The frame in the terms of the claims: from the state step 3 leaves to the answer. -/
theorem step_eq_frameAfter {s u : State} (hrun : s.run = .running) (hev : s.frameInput.ev ≠ .exit)
    (h : stepThree (cpuTicks s) (inputTaken s) = .next u) : step s = .next (frameAfter s u) := by
  have henv := stepThree_sameEnv h
  have hclock : u.clock = frameTime s := henv.clock.trans (inputTaken_clock s)
  have hgate : u.gate60 = s.gate60 := henv.gate60.trans (inputTaken_same s).gate60
  have hbeep : u.out.beep = false := by rw [stepThree_beep h, inputTaken_out]; rfl
  have hbegin : stepThree (beginFrame s.frameInput s).1 (beginFrame s.frameInput s).2 = .next u := by
    rw [beginFrame_eq]
    exact h
  rw [step_of_stepThree hrun hev hbegin]
  by_cases hu : u.run = .running
  · rw [finishFrame_running hu, stepFive_stepFour_eq hclock hgate hbeep, frameAfter_running hu]
  · rw [finishFrame_ended hu, frameAfter_ended hu]

/-- Step 3 executes an instruction when the CPU gate ticks in `Normal` (R129). -/
theorem step_of_executeOne {s u : State} (hrun : s.run = .running) (hev : s.frameInput.ev ≠ .exit)
    (hcpu : cpuTicks s = true) (hms : (inputTaken s).ms = .normal) (h : executeOne (inputTaken s) = .next u) :
    step s = .next (frameAfter s u) := by
  refine step_eq_frameAfter hrun hev ?_
  rw [hcpu]
  simpa only [stepThree, hms] using h

/-- Step 3 does nothing when the CPU gate does not tick or the machine waits (R129). -/
theorem step_of_no_instruction {s : State} (hrun : s.run = .running) (hev : s.frameInput.ev ≠ .exit)
    (h : cpuTicks s = false ∨ ∃ r, (inputTaken s).ms = .waitKeyPress r) :
    step s = .next (frameEnd s (inputTaken s)) := by
  have hu : (inputTaken s).run = .running := (inputTaken_same s).run.trans hrun
  rw [← frameAfter_running hu]
  refine step_eq_frameAfter hrun hev ?_
  rcases stepThree_cases (cpuTicks s) (inputTaken s) with ⟨hcpu, hms, _⟩ | ⟨_, e⟩
  · rcases h with hno | ⟨r, hwait⟩
    · simp [hno] at hcpu
    · simp [hwait] at hms
  · exact e

/-- Everything a frame can answer (R126): a machine that has ended does nothing, `Exit` stops it, and else steps 4 and 5
follow what step 3 leaves, which is the state it begins in or the state after one instruction. -/
theorem step_next_cases {s t : State} (h : step s = .next t) :
    (s.run ≠ .running ∧ t = idleFrame s) ∨
    (s.run = .running ∧ s.frameInput.ev = .exit ∧ t = exitFrame s) ∨
    (s.run = .running ∧ s.frameInput.ev ≠ .exit ∧ (cpuTicks s = false ∨ ∃ r, (inputTaken s).ms = .waitKeyPress r) ∧
      t = frameEnd s (inputTaken s)) ∨
    (s.run = .running ∧ s.frameInput.ev ≠ .exit ∧ cpuTicks s = true ∧ (inputTaken s).ms = .normal ∧
      ∃ u, executeOne (inputTaken s) = .next u ∧ t = frameAfter s u) := by
  rcases step_cases s with ⟨hend, e⟩ | ⟨hrun, hexit, e⟩ | ⟨hrun, hev, _⟩
  · rw [e] at h
    injection h with h
    exact .inl ⟨hend, h.symm⟩
  · rw [e] at h
    injection h with h
    exact .inr (.inl ⟨hrun, hexit, h.symm⟩)
  · rcases stepThree_cases (cpuTicks s) (inputTaken s) with ⟨hcpu, hms, _⟩ | ⟨hno, _⟩
    · obtain ⟨u, hu⟩ := executeOne_total (inputTaken s)
      rw [step_of_executeOne hrun hev hcpu hms hu] at h
      injection h with h
      exact .inr (.inr (.inr ⟨hrun, hev, hcpu, hms, u, hu, h.symm⟩))
    · rw [step_of_no_instruction hrun hev hno] at h
      injection h with h
      exact .inr (.inr (.inl ⟨hrun, hev, hno, h.symm⟩))

end Sys2Proof.Proofs
end

section
/-! Claims on frames (spec/45_frame_sequencer.md, spec/60_exceptions.md): which instruction a frame executes, waiting
and waking, the gates and timers, and how a run ends. -/

namespace Sys2Proof.Proofs

open Sys2Proof.Machine Sys2Proof.Laws Sys2Proof.Claim

/-! ### The instruction a frame executes -/

/-- Fetch, decode and execute is the instruction that the word at `PC` decodes to. -/
theorem executeOne_of_decode {s : State} {i : Instr} (hpc : s.pc.toNat < 0x0FFF)
    (hdecode : decodeWord (fetchedWord s) = some i) : executeOne s = exec i s := by
  simp only [executeOne, fetch_of_lt hpc, hdecode]

theorem fetchedWord_inputTaken (s : State) : fetchedWord (inputTaken s) = fetchedWord s := by
  rw [fetchedWord, (inputTaken_same s).mem, (inputTaken_same s).pc, ← fetchedWord]

/-- A frame whose step 3 executes an instruction is that instruction, then steps 4 and 5. -/
theorem step_of_decode {s : State} {i : Instr} (hrun : s.run = .running) (hev : s.frameInput.ev ≠ .exit)
    (hcpu : cpuTicks s = true) (hms : (inputTaken s).ms = .normal) (hpc : s.pc.toNat < 0x0FFF)
    (hdecode : decodeWord (fetchedWord s) = some i) :
    step s = onNext (finishFrame s.frameInput.time) (exec i (inputTaken s)) := by
  obtain ⟨u, hu⟩ := exec_total i (inputTaken s)
  have hexec : executeOne (inputTaken s) = exec i (inputTaken s) :=
    executeOne_of_decode ((inputTaken_same s).pc ▸ hpc) (fetchedWord_inputTaken s ▸ hdecode)
  have hthree : stepThree (beginFrame s.frameInput s).1 (beginFrame s.frameInput s).2 = .next u := by
    rw [beginFrame_eq, hcpu]
    simp only [stepThree, hms, hexec, hu]
  rw [step_of_stepThree hrun hev hthree, hu]
  rfl

/-! ### Frames without an event, and frames with the tick Booleans -/

theorem inputTaken_of_none {s : State} (hev : s.frameInput.ev = .none) : inputTaken s = timeRead s := by
  unfold inputTaken
  rw [hev]

theorem inputTaken_of_key_normal {s : State} {k : KeyCode} (hev : s.frameInput.ev = .key k) (hms : s.ms = .normal) :
    inputTaken s = { timeRead s with key := s.key.set k.val true } := by
  unfold inputTaken
  rw [hev, hms]

theorem inputTaken_of_key_wait {s : State} {k : KeyCode} {r : Reg} (hev : s.frameInput.ev = .key k)
    (hms : s.ms = .waitKeyPress r) : inputTaken s =
      { timeRead s with key := s.key.set k.val true, v := s.v.set r.val (BitVec.ofNat 8 k.val), ms := .normal } := by
  unfold inputTaken
  rw [hev, hms]

theorem cpuTicks_of_ticks {s : State} {cpu t60 : Bool} (ht : s.frameInput.time = .ticks cpu t60) :
    cpuTicks s = cpu := by
  unfold cpuTicks
  rw [ht]

/-- With the tick Booleans no clock is read and no baseline moves. -/
theorem timeRead_of_ticks {s : State} {cpu t60 : Bool} (ht : s.frameInput.time = .ticks cpu t60) :
    timeRead s = { s with out := FrameOutput.empty } := by
  unfold timeRead frameTime baselineAfter
  rw [ht]

/-- The end of a frame with the tick Booleans, on a state that has kept the gate and not beeped. -/
theorem frameEnd_of_ticks {s u : State} {cpu t60 : Bool} (ht : s.frameInput.time = .ticks cpu t60)
    (hgate : u.gate60 = s.gate60) (hbeep : u.out.beep = false) :
    frameEnd s u =
      let v := if t60 = true then
          { u with dt := countedDown u.dt, st := countedDown u.st,
                   out := { u.out with beep := decide (u.st ≠ 0#8) } }
        else u
      { v with key := noKeys, inputs := u.inputs.tail, frame := u.frame + 1 } := by
  have hout : u.out = { u.out with beep := false } := by rw [← hbeep]
  unfold frameEnd sixtyTicks baselineAfter
  rw [ht]
  cases t60 <;> simp [← hgate, ← hout]

/-- A frame that executes an instruction goes on from the state the instruction leaves. -/
theorem step_of_exec {s t : State} {i : Instr} (hrun : s.run = .running) (hev : s.frameInput.ev ≠ .exit)
    (hcpu : cpuTicks s = true) (hms : (inputTaken s).ms = .normal) (hpc : s.pc.toNat < 0x0FFF)
    (hdecode : decodeWord (fetchedWord s) = some i) (hexec : exec i (inputTaken s) = .next t) :
    step s = .next (frameAfter s t) := by
  refine step_of_executeOne hrun hev hcpu hms ((executeOne_of_decode ?_ ?_).trans hexec)
  · rwa [(inputTaken_same s).pc]
  · rwa [fetchedWord_inputTaken]

/-- With no event and the tick Booleans, step 3 begins in the old state with no output yet. -/
theorem inputTaken_of_ready {s : State} {t60 : Bool} (hready : Ready s .none t60) :
    inputTaken s = { s with out := FrameOutput.empty } := by
  obtain ⟨_, _, _, hev, ht⟩ := hready
  rw [inputTaken_of_none hev, timeRead_of_ticks ht]

/-- Settles O9: in the state after steps 1 and 2 the frame executes what the bytes at `PC` decode to; with no event and
the tick Booleans that state is the old one with its outputs empty. -/
theorem stepRunsTheDecodedInstruction : Obligations.StepRunsTheDecodedInstruction := by
  unfold Obligations.StepRunsTheDecodedInstruction
  refine ⟨fun s i hrun hev hcpu hms hpc hbytes => ?_, fun s t i t60 hready hdecode hexec => ?_⟩
  · rw [beginFrame_eq] at hcpu hms hpc hbytes ⊢
    have hdecode : decodeWord (fetchedWord (inputTaken s)) = some i := by
      rcases decode_cases _ _ [] with ⟨j, hj, e⟩ | ⟨_, e⟩ <;> rw [hbytes] at e
      · cases e
        exact hj
      · cases e
    rw [fetchedWord_inputTaken] at hdecode
    exact step_of_decode hrun hev hcpu hms ((inputTaken_same s).pc ▸ hpc) hdecode
  · have hbeep : t.out.beep = false := exec_beep hexec
    have hgate : t.gate60 = s.gate60 := (exec_sameEnv hexec).gate60
    rw [← inputTaken_of_ready hready] at hexec
    have hms : (inputTaken s).ms = .normal := by rw [inputTaken_of_ready hready]; exact hready.2.1
    obtain ⟨hrun, _, hpc, hev, ht⟩ := hready
    rw [step_of_exec hrun (by simp [hev]) (cpuTicks_of_ticks ht) hms hpc hdecode hexec, frameAfter,
      frameEnd_of_ticks ht hgate hbeep]

/-! ### A placed instruction -/

/-- A placed word stands where it can be fetched (log 17). -/
theorem placeAt_lt (s : State) : placeAt s < 0x0FFF := by
  unfold placeAt Config.memSize Config.loadBase
  split <;> omega

theorem placeWord_pc (w : Word) (s : State) : (placeWord w s).pc.toNat = placeAt s := by
  have := placeAt_lt s
  simp only [placeWord, BitVec.toNat_ofNat]
  omega

/-- The word at `PC` of a state with a word placed is that word, from canonical memory. -/
theorem fetchedWord_placeWord {s : State} (hwf : Memory.wf s.mem = true) (w : Word) :
    fetchedWord (placeWord w s) = w := by
  have hfit : placeAt s + [highByte w, lowByte w].length ≤ 4096 := by
    have := placeAt_lt s
    simp only [List.length_cons, List.length_nil]
    omega
  have hhigh := read_writeBytes_getD (k := 0) hwf hfit (by simp)
  have hlow := read_writeBytes_getD (k := 1) hwf hfit (by simp)
  rw [fetchedWord, placeWord_pc]
  exact (congrArg₂ wordOfBytes hhigh hlow).trans (wordOfBytes_bytes w)

theorem decodeWord_of_decodeTableWord {n w : Nat} {i : Instr} (h : decodeTableWord n w = some i) :
    decodeWord (tableWord n w) = some i := by
  unfold decodeTableWord at h
  rcases decode_cases (highByte (tableWord n w)) (lowByte (tableWord n w)) [] with ⟨j, hj, e⟩ | ⟨_, e⟩ <;>
    rw [e] at h
  · rw [wordOfBytes_bytes] at hj
    exact hj.trans h
  · cases h

/-- Settles O10: the placed word is the one fetched, in a frame with a CPU tick and no event. -/
theorem placedWordIsTheNextInstruction : Obligations.PlacedWordIsTheNextInstruction := by
  unfold Obligations.PlacedWordIsTheNextInstruction
  intro s w i hwf htable
  have hdecode : decodeWord (fetchedWord (s.withFetchWord 16 w)) = some i := by
    rw [State.withFetchWord, fetchedWord_placeWord hwf]
    exact decodeWord_of_decodeTableWord htable
  have hinput : inputTaken (s.withFetchWord 16 w) = { s.withFetchWord 16 w with out := FrameOutput.empty } :=
    (inputTaken_of_none rfl).trans (timeRead_of_ticks (cpu := true) (t60 := false) rfl)
  have hpc : (s.withFetchWord 16 w).pc.toNat < 0x0FFF := (placeWord_pc (tableWord 16 w) s).trans_lt (placeAt_lt s)
  rw [← hinput]
  exact step_of_decode rfl nofun rfl (by rw [hinput]; rfl) hpc hdecode

/-! ### Waiting and waking -/

/-- Settles O42: step 2 wakes the machine, and step 3 then executes if the CPU gate ticks. -/
theorem wakeStoresTheKeyAndResumes : Obligations.WakeStoresTheKeyAndResumes := by
  unfold Obligations.WakeStoresTheKeyAndResumes
  intro s r k hrun hms hev
  have hwoken := inputTaken_of_key_wait hev hms
  have hnotExit : s.frameInput.ev ≠ .exit := by simp [hev]
  rw [← hwoken]
  refine ⟨fun hcpu => step_of_no_instruction hrun hnotExit (.inl hcpu), fun hcpu => ?_⟩
  obtain ⟨u, hu⟩ := executeOne_total (inputTaken s)
  exact ⟨u, hu, step_of_executeOne hrun hnotExit hcpu (by rw [hwoken]) hu⟩

/-- Settles O43: with no key event the machine still waits when step 3 begins. -/
theorem waitingMachineExecutesNothing : Obligations.WaitingMachineExecutesNothing := by
  unfold Obligations.WaitingMachineExecutesNothing
  intro s r hrun hms hev
  have hinput := inputTaken_of_none hev
  rw [← hinput]
  exact step_of_no_instruction hrun (by simp [hev]) (.inr ⟨r, by rw [hinput]; exact hms⟩)

/-- Settles O59: without a CPU tick step 3 does nothing, and in a quiet frame steps 1, 2, 4 and 5 only do the frame's
bookkeeping. -/
theorem idleFrameChangesNothing : Obligations.IdleFrameChangesNothing := by
  unfold Obligations.IdleFrameChangesNothing
  refine ⟨fun s hrun hev hcpu => step_of_no_instruction hrun hev (.inl hcpu), fun s hrun hkey hev ht => ?_⟩
  rw [step_of_no_instruction hrun (by simp [hev]) (.inl (cpuTicks_of_ticks ht)), inputTaken_of_none hev,
    timeRead_of_ticks ht, frameEnd_of_ticks (u := { s with out := FrameOutput.empty }) ht rfl rfl]
  simp [hkey]

/-! ### Timers and gates -/

/-- Settles O44: steps 4 and 5 follow, and step 4 reads the timers of the state that step 3 leaves. -/
theorem sixtyHzStepFollowsTheInstruction : Obligations.SixtyHzStepFollowsTheInstruction := by
  unfold Obligations.SixtyHzStepFollowsTheInstruction
  intro s u hrun hev hthree hu
  have hbeep : u.out.beep = false := by rw [stepThree_beep hthree, beginFrame_out]; rfl
  refine ⟨_, step_of_stepThree hrun hev hthree, ?_⟩
  rw [finishFrame_running hu]
  by_cases htick : (pollSixtyGate s.frameInput.time u).1 = true
  · simp [stepFour, htick, countDown_eq_countedDown]
  · simp [stepFour, htick, hbeep]

/-- Counting a timer down takes one off it, or nothing at zero. -/
theorem countDown_toNat (t : Byte) : (countDown t).toNat = t.toNat - 1 := by
  rw [countDown_eq_countedDown, countedDown, BitVec.toNat_ofNat]
  omega

theorem timerStep_iterate_toNat (k : Nat) (s : State) :
    (timerStep^[k] s).dt.toNat = s.dt.toNat - k ∧ (timerStep^[k] s).st.toNat = s.st.toNat - k := by
  induction k with
  | zero => exact ⟨rfl, rfl⟩
  | succ k ih =>
    obtain ⟨hdt, hst⟩ := ih
    rw [Function.iterate_succ_apply', timerStep_dt, timerStep_st, countDown_toNat, countDown_toNat, hdt, hst]
    omega

/-- Settles O46: by induction on the number of 60 Hz steps each takes one off a timer that is not zero. -/
theorem timerLoadedWithNBeepsNTimes : Obligations.TimerLoadedWithNBeepsNTimes := by
  unfold Obligations.TimerLoadedWithNBeepsNTimes
  intro s k
  obtain ⟨hdt, hst⟩ := timerStep_iterate_toNat k s
  refine ⟨hdt, hst, ?_⟩
  have hzero : (timerStep^[k] s).st = 0#8 ↔ s.st.toNat ≤ k := by
    rw [← BitVec.toNat_inj, hst]
    exact Nat.sub_eq_zero_iff_le
  simp [hzero]

/-- The times of a gate's true results lie at least the interval after the baseline, and from one to the next. -/
theorem trueTimes_spaced (interval last : Nat) (nows : List Nat) :
    (trueTimes interval last nows).Pairwise (fun a b => a + interval ≤ b) ∧
      ∀ a ∈ trueTimes interval last nows, last + interval ≤ a := by
  induction nows generalizing last with
  | nil => simp [trueTimes]
  | cons now rest ih =>
    by_cases h : last + interval ≤ now
    · obtain ⟨hpair, hfirst⟩ := ih now
      have htimes : trueTimes interval last (now :: rest) = now :: trueTimes interval now rest := by
        simp [trueTimes, gateTick, h]
      rw [htimes]
      refine ⟨List.pairwise_cons.mpr ⟨hfirst, hpair⟩, fun a ha => ?_⟩
      rcases List.mem_cons.mp ha with rfl | ha
      · exact h
      · have := hfirst a ha
        omega
    · have htimes : trueTimes interval last (now :: rest) = trueTimes interval last rest := by
        simp [trueTimes, gateTick, h]
      rw [htimes]
      exact ih last

/-- Settles O47: a true result moves the baseline to its time, so the next one comes at least the interval later. -/
theorem gateTicksAreAnIntervalApart : Obligations.GateTicksAreAnIntervalApart := by
  unfold Obligations.GateTicksAreAnIntervalApart
  refine ⟨trueTimes_spaced, fun interval last now => ⟨fun h => ?_, fun h => ?_⟩⟩ <;> rw [gateTick_eq] <;> simp [h]

/-! ### Frames timed by the clock -/

theorem frameTime_of_elapsed {s : State} {d : Nat} (ht : s.frameInput.time = .elapsed d) :
    frameTime s = s.clock + d := by
  unfold frameTime
  rw [ht]

theorem cpuTicks_of_elapsed {s : State} {d : Nat} (ht : s.frameInput.time = .elapsed d) :
    cpuTicks s = true ↔ s.gateCpu + Config.cpuInterval ≤ s.clock + d := by
  unfold cpuTicks
  rw [ht]
  simp only [decide_eq_true_eq]
  omega

theorem sixtyTicks_of_elapsed {s : State} {d : Nat} (ht : s.frameInput.time = .elapsed d) :
    sixtyTicks s = true ↔ s.gate60 + Config.t60Interval ≤ s.clock + d := by
  unfold sixtyTicks
  rw [ht]
  simp only [decide_eq_true_eq]
  omega

theorem baselineAfter_of_elapsed {s : State} {d : Nat} (ht : s.frameInput.time = .elapsed d) (ticks : Bool)
    (last : Nat) : baselineAfter s ticks last = if ticks = true then s.clock + d else last := by
  unfold baselineAfter
  rw [frameTime_of_elapsed ht, ht]

/-- The end of a frame timed by the clock in which the 60 Hz gate ticks. -/
theorem frameEnd_of_sixty_tick {s : State} {d : Nat} (ht : s.frameInput.time = .elapsed d) (htick : sixtyTicks s = true)
    (u : State) : frameEnd s u =
      { timerStep u with gate60 := s.clock + d, key := noKeys, inputs := u.inputs.tail, frame := u.frame + 1 } := by
  simp [frameEnd, htick, baselineAfter_of_elapsed ht, timerStep, countDown_eq_countedDown]

/-- The end of a frame timed by the clock in which the 60 Hz gate does not tick. -/
theorem frameEnd_of_no_sixty_tick {s u : State} {d : Nat} (ht : s.frameInput.time = .elapsed d)
    (htick : sixtyTicks s = false) (hgate : u.gate60 = s.gate60) (hbeep : u.out.beep = false) :
    frameEnd s u = { u with key := noKeys, inputs := u.inputs.tail, frame := u.frame + 1 } := by
  have hout : u.out = { u.out with beep := false } := by rw [← hbeep]
  simp [frameEnd, htick, baselineAfter_of_elapsed ht, ← hgate, ← hout]

/-- Step 3 of a frame timed by the clock executes an instruction exactly when the CPU interval has passed and the
machine does not wait (R129, R155). -/
theorem stepThree_of_elapsed {s u : State} {d : Nat} (ht : s.frameInput.time = .elapsed d)
    (h : stepThree (cpuTicks s) (inputTaken s) = .next u) :
    if s.gateCpu + Config.cpuInterval ≤ s.clock + d ∧ (inputTaken s).ms = .normal then
      executeOne (inputTaken s) = .next u
    else u = inputTaken s := by
  simp only [← cpuTicks_of_elapsed ht]
  rcases stepThree_cases (cpuTicks s) (inputTaken s) with ⟨hcpu, hms, e⟩ | ⟨hno, e⟩ <;> rw [e] at h
  · rwa [if_pos ⟨hcpu, hms⟩]
  · injection h with h
    rw [if_neg, h]
    rintro ⟨hcpu, hms⟩
    rcases hno with hno | ⟨r, hwait⟩
    · simp [hno] at hcpu
    · simp [hwait] at hms

/-- Settles O48: step 3 leaves `u` with the frame's time and the CPU gate's new baseline, and steps 4 and 5 follow
unless a fatal has ended the frame. -/
theorem gatesArePolledInEveryFrame : Obligations.GatesArePolledInEveryFrame := by
  unfold Obligations.GatesArePolledInEveryFrame
  intro s d hrun hev ht
  obtain ⟨u, hthree⟩ := stepThree_total (cpuTicks s) (inputTaken s)
  have henv := stepThree_sameEnv hthree
  have hclock : u.clock = s.clock + d := by rw [henv.clock, inputTaken_clock, frameTime_of_elapsed ht]
  have hcpu : u.gateCpu = if s.gateCpu + Config.cpuInterval ≤ s.clock + d then s.clock + d else s.gateCpu := by
    rw [henv.gateCpu, inputTaken_gateCpu, baselineAfter_of_elapsed ht]
    simp only [cpuTicks_of_elapsed ht]
  have hgate : u.gate60 = s.gate60 := henv.gate60.trans (inputTaken_same s).gate60
  have hbeep : u.out.beep = false := by rw [stepThree_beep hthree, inputTaken_out]; rfl
  refine ⟨u, frameAfter s u, step_eq_frameAfter hrun hev hthree, stepThree_of_elapsed ht hthree, ?_, ?_, fun hu => ?_,
    fun hu => ?_⟩
  · rw [← hclock]
    unfold frameAfter
    split <;> rfl
  · rw [← hcpu]
    unfold frameAfter
    split <;> rfl
  · rw [frameAfter_ended hu]
    exact ⟨rfl, hgate⟩
  · rw [frameAfter_running hu]
    simp only [← sixtyTicks_of_elapsed ht]
    cases htick : sixtyTicks s with
    | true =>
      rw [if_pos rfl, frameEnd_of_sixty_tick ht htick]
      exact ⟨rfl, countDown_eq_countedDown u.dt, countDown_eq_countedDown u.st, rfl⟩
    | false =>
      rw [if_neg Bool.false_ne_true, frameEnd_of_no_sixty_tick ht htick hgate hbeep]
      exact ⟨rfl, hgate, hbeep⟩

/-! ### The key pulse and the idle jump -/

/-- A frame with a CPU tick and no 60 Hz tick whose instruction is not fatal: the state the instruction leaves, but for
the frame's bookkeeping. -/
theorem step_of_exec_no_sixty_tick {s t : State} {i : Instr} (hrun : s.run = .running) (hev : s.frameInput.ev ≠ .exit)
    (ht : s.frameInput.time = .ticks true false) (hms : (inputTaken s).ms = .normal) (hpc : s.pc.toNat < 0x0FFF)
    (hdecode : decodeWord (fetchedWord s) = some i) (hexec : exec i (inputTaken s) = .next t)
    (hlive : t.run = (inputTaken s).run) :
    step s = .next { t with key := noKeys, inputs := t.inputs.tail, frame := t.frame + 1 } := by
  have hgate : t.gate60 = s.gate60 := (exec_sameEnv hexec).gate60.trans (inputTaken_same s).gate60
  have hbeep : t.out.beep = false := by rw [exec_beep hexec, inputTaken_out]; rfl
  have htrun : t.run = .running := by rw [hlive, (inputTaken_same s).run, hrun]
  rw [step_of_exec hrun hev (cpuTicks_of_ticks ht) hms hpc hdecode hexec, frameAfter_running htrun,
    frameEnd_of_ticks ht hgate hbeep]
  rfl

/-- SKP on a key code reads that code's flag. -/
theorem exec_skp_of_eq {x : Reg} {s : State} {j : KeyCode} (h : (s.reg x).toNat = j.val) :
    exec (.skp x) s = .next { s with pc := s.pc + if s.key[j.val] = true then 4#16 else 2#16 } := by
  rw [exec_skp, checkKey_of_eq true h]
  simp [State.skipIf, State.setPc, State.keyPressed]

/-- With one flag set and no other, the flag of `j` is set exactly when it is that one. -/
theorem noKeys_set_getElem (k j : KeyCode) : (noKeys.set k.val true)[j.val] = decide (k = j) := by
  rw [Vector.getElem_set]
  simp [noKeys, Fin.ext_iff]

/-- Settles O49: the flag is set in step 1, read in step 3 and cleared in step 5 of the one frame. -/
theorem keyPulseLastsOneFrame : Obligations.KeyPulseLastsOneFrame := by
  unfold Obligations.KeyPulseLastsOneFrame
  intro s x j hkey hdecode hx
  refine ⟨fun k hready => ?_, fun hready => ?_⟩
  · obtain ⟨hrun, hms, hpc, hev, ht⟩ := hready
    have hinput : inputTaken s = { s with out := FrameOutput.empty, key := noKeys.set k.val true } := by
      rw [inputTaken_of_key_normal hev hms, timeRead_of_ticks ht, hkey]
    have hskp := exec_skp_of_eq (x := x) (s := inputTaken s) (j := j) (hinput ▸ hx)
    rw [step_of_exec_no_sixty_tick hrun (by simp [hev]) ht (hinput ▸ hms) hpc hdecode hskp rfl]
    simp [hinput, afterQuietFrame, noKeys_set_getElem]
  · have hinput := inputTaken_of_ready hready
    obtain ⟨hrun, hms, hpc, hev, ht⟩ := hready
    have hskp := exec_skp_of_eq (x := x) (s := inputTaken s) (j := j) (hinput ▸ hx)
    rw [step_of_exec_no_sixty_tick hrun (by simp [hev]) ht (hinput ▸ hms) hpc hdecode hskp rfl]
    simp [hinput, afterQuietFrame, hkey, noKeys]

/-- Settles O60: the jump writes to `PC` the value it has. -/
theorem jumpToSelfIdles : Obligations.JumpToSelfIdles := by
  unfold Obligations.JumpToSelfIdles
  intro s nnn hready hkey hdecode htarget
  have hself : zextAddr nnn = s.pc := by rw [zextAddr_eq_ofNat, htarget, BitVec.ofNat_toNat, BitVec.setWidth_eq]
  have hinput := inputTaken_of_ready hready
  obtain ⟨hrun, hms, hpc, hev, ht⟩ := hready
  rw [step_of_exec_no_sixty_tick hrun (by simp [hev]) ht (hinput ▸ hms) hpc hdecode (exec_jp nnn _) rfl, hself, hinput,
    ← hkey]
  rfl

/-! ### The end of a run -/

theorem step_of_ended {s : State} (h : s.run ≠ .running) : step s = .next (idleFrame s) := by
  rcases step_cases s with ⟨_, e⟩ | ⟨hrun, _, _⟩ | ⟨hrun, _, _⟩
  · exact e
  · exact absurd hrun h
  · exact absurd hrun h

/-- A run of frames goes on from the answer of the first. -/
theorem run_succ_of_step {s t : State} (h : step s = .next t) (k : Nat) :
    Sys2Proof.core.run (k + 1) s = Sys2Proof.core.run k t := by
  have hcore : Sys2Proof.core.step s = .next t := h
  simp only [Host.Core.run, hcore]

/-- Any number of frames after the end only empties the outputs. -/
theorem run_of_ended (k : Nat) {s : State} (h : s.run ≠ .running) :
    Sys2Proof.core.run (k + 1) s = .next (idleFrame s) := by
  rw [run_succ_of_step (step_of_ended h)]
  induction k with
  | zero => rfl
  | succ k ih => rw [run_succ_of_step (step_of_ended (s := idleFrame s) h)]; exact ih

/-- Settles O50: a fatal writes `RUN` alone, suppresses steps 4 and 5, and every later frame is idle. -/
theorem fatalEndsTheFrameAndTheRun : Obligations.FatalEndsTheFrameAndTheRun := by
  unfold Obligations.FatalEndsTheFrameAndTheRun
  refine ⟨fun _ _ => rfl, fun s u hrun hev hthree hu => ?_, fun s k h => run_of_ended k h⟩
  rw [step_of_stepThree hrun hev hthree, finishFrame_ended hu]

/-- Settles O51: the event is read before anything else of the frame. -/
theorem exitStopsBeforeAnythingElse : Obligations.ExitStopsBeforeAnythingElse := by
  unfold Obligations.ExitStopsBeforeAnythingElse
  intro s hrun hexit
  rcases step_cases s with ⟨hend, _⟩ | ⟨_, _, e⟩ | ⟨_, hev, _⟩
  · exact absurd hrun hend
  · exact e
  · exact absurd hexit hev

/-! ### Decode errors -/

/-- A decode error in a frame with no event and a CPU tick: the fatal and the dump, and nothing else (R143, R144). -/
theorem step_of_decodeError {s : State} {t60 : Bool} {c : Fault} (hrun : s.run = .running) (hms : s.ms = .normal)
    (hev : s.frameInput.ev = .none) (ht : s.frameInput.time = .ticks true t60)
    (h : executeOne { s with out := FrameOutput.empty } =
      .next (State.raiseDecode { s with out := FrameOutput.empty } c)) :
    step s = .next { s with run := .faulted c, out := { render := [], beep := false, dump := some s.dump } } := by
  have hinput : inputTaken s = { s with out := FrameOutput.empty } :=
    (inputTaken_of_none hev).trans (timeRead_of_ticks ht)
  rw [← hinput] at h
  rw [step_of_executeOne hrun (by simp [hev]) (cpuTicks_of_ticks ht) (by rw [hinput]; exact hms) h,
    frameAfter_ended (by simp), hinput]
  rfl

/-- Settles O52: the fetch fails before anything is decoded. -/
theorem fetchOutOfRangeStopsWithDump : Obligations.FetchOutOfRangeStopsWithDump := by
  unfold Obligations.FetchOutOfRangeStopsWithDump
  intro s t60 hrun hms hev ht hpc
  refine step_of_decodeError hrun hms hev ht ?_
  rcases fetch_cases { s with out := FrameOutput.empty } with ⟨hlt, _⟩ | ⟨_, hnone⟩
  · exact absurd hlt (Nat.not_lt.mpr hpc)
  · simp only [executeOne, hnone]

end Sys2Proof.Proofs
end

section
/-! The XOR-draw engine and DRW (spec/43_display.md R107 to R112). -/

namespace Sys2Proof.Proofs

open Sys2Proof.Machine Sys2Proof.Laws Sys2Proof.Claim

/-! ### The engine and the loops of R108 -/

/-- Toggling one list of pixels and then another is toggling both in a row. -/
theorem togglePixels_append (fb : FrameBuffer) (ps qs : List (Col × Row)) :
    togglePixels fb (ps ++ qs) =
      let d := togglePixels fb ps
      let e := togglePixels d.fb qs
      { fb := e.fb, events := d.events ++ e.events, anyErased := d.anyErased || e.anyErased } := by
  induction ps generalizing fb with
  | nil => simp [togglePixels]
  | cons p rest ih =>
    obtain ⟨x, y⟩ := p
    simp [togglePixels, ih, Bool.or_assoc]

/-- The draw `d` continued by toggling the pixels `ps`. -/
def drawMore (d : DrawResult) (ps : List (Col × Row)) : DrawResult :=
  let e := togglePixels d.fb ps
  { fb := e.fb, events := d.events ++ e.events, anyErased := d.anyErased || e.anyErased }

/-- A draw as the canvas of R108. -/
def canvasOf (d : DrawResult) : Canvas := (FrameBuffer.pixel d.fb, d.events, d.anyErased)

theorem drawMore_append (d : DrawResult) (ps qs : List (Col × Row)) :
    drawMore d (ps ++ qs) = drawMore (drawMore d ps) qs := by
  simp [drawMore, togglePixels_append, Bool.or_assoc]

theorem drawMore_nil (d : DrawResult) : drawMore d [] = d := by
  simp [drawMore, togglePixels]

/-- The loop body of R108 toggles the pixel under its bit, if the bit is 1. -/
theorem xorBit_canvasOf (b : Byte) (x0 y0 r c : Nat) (d : DrawResult) :
    xorBit b x0 y0 r (canvasOf d) c =
      canvasOf (drawMore d (if b.getLsbD (7 - c) = true then [(wrapCol x0 c, wrapRow y0 r)] else [])) := by
  unfold xorBit
  split
  · simp only [canvasOf, drawMore, togglePixels, Prod.mk.injEq]
    refine ⟨?_, ?_, ?_⟩
    · funext x y
      rw [pixel_flip]
      by_cases h : x = wrapCol x0 c ∧ y = wrapRow y0 r
      · obtain ⟨rfl, rfl⟩ := h
        simp [wrapCol, wrapRow]
      · refine (if_neg h).trans ?_
        simp [h]
    · simp [wrapCol, wrapRow]
    · change (if FrameBuffer.pixel d.fb (wrapCol x0 c) (wrapRow y0 r) = true then true else d.anyErased) = _
      cases FrameBuffer.pixel d.fb (wrapCol x0 c) (wrapRow y0 r) <;> simp
  · rw [drawMore_nil]

/-- The columns of a sprite's row, drawn one after the other (R108). -/
theorem foldl_xorBit_canvasOf (b : Byte) (x0 y0 r : Nat) (cs : List Nat) (d : DrawResult) :
    cs.foldl (xorBit b x0 y0 r) (canvasOf d) =
      canvasOf (drawMore d ((cs.filter fun c => b.getLsbD (7 - c)).map fun c => (wrapCol x0 c, wrapRow y0 r))) := by
  induction cs generalizing d with
  | nil => simp [drawMore_nil]
  | cons c rest ih =>
    rw [List.foldl_cons, xorBit_canvasOf, ih, ← drawMore_append]
    by_cases h : b.getLsbD (7 - c) = true <;> simp [h]

/-- One pass of the inner loop of R108 draws a row of the sprite. -/
theorem foldl_xorBit_row (b : Byte) (x0 y0 r : Nat) (d : DrawResult) :
    (List.range 8).foldl (xorBit b x0 y0 r) (canvasOf d) = canvasOf (drawMore d (rowPixels x0 (wrapRow y0 r) b)) :=
  foldl_xorBit_canvasOf b x0 y0 r (List.range 8) d

/-- The last row of a sprite is drawn last. -/
theorem spritePixelsFrom_concat (x0 y0 r : Nat) (sprite : List Byte) (b : Byte) :
    spritePixelsFrom x0 y0 r (sprite ++ [b]) =
      spritePixelsFrom x0 y0 r sprite ++ rowPixels x0 (wrapRow y0 (r + sprite.length)) b := by
  induction sprite generalizing r with
  | nil => simp [spritePixelsFrom]
  | cons a rest ih =>
    simp only [List.cons_append, spritePixelsFrom, ih, List.append_assoc, List.length_cons]
    congr 4
    omega

/-- The outer loop of R108 over the rows of a sprite draws the sprite. -/
theorem xorDrawLoops_canvasOf (fb : FrameBuffer) (x0 y0 : Nat) (sprite : List Byte) :
    xorDrawLoops (FrameBuffer.pixel fb) x0 y0 sprite = canvasOf (togglePixels fb (spritePixels x0 y0 sprite)) := by
  induction sprite using List.reverseRecOn with
  | nil => rfl
  | append_singleton sprite b ih =>
    have hprefix : xorDrawLoops (FrameBuffer.pixel fb) x0 y0 sprite =
        (List.range sprite.length).foldl
          (fun d r => (List.range 8).foldl (xorBit ((sprite ++ [b]).getD r 0#8) x0 y0 r) d)
          (FrameBuffer.pixel fb, [], false) := by
      refine List.foldl_ext _ _ _ fun d r hr => ?_
      rw [List.getD_append _ _ _ _ (List.mem_range.mp hr)]
    rw [xorDrawLoops, List.length_append, List.length_singleton, List.range_succ (n := sprite.length),
      List.foldl_append, ← hprefix, ih, List.foldl_cons, List.foldl_nil, foldl_xorBit_row, spritePixels, spritePixels,
      spritePixelsFrom_concat, togglePixels_append]
    simp [drawMore]

/-- Settles O36: the inner loop draws a row, the outer loop the rows in order. -/
theorem xorDrawIsThePseudocode : Obligations.XorDrawIsThePseudocode := by
  unfold Obligations.XorDrawIsThePseudocode
  exact fun fb x0 y0 sprite => xorDrawLoops_canvasOf fb x0.toNat y0.toNat sprite

/-! ### Drawing twice -/

/-- Each pixel after a draw of a sprite that does not overlap itself (R109, R110). -/
theorem pixel_xorDraw {sprite : List Byte} (h : sprite.length ≤ 32) (fb : FrameBuffer) (x0 y0 : Byte) (x : Col)
    (y : Row) : FrameBuffer.pixel (xorDraw fb x0 y0 sprite).fb x y =
      (FrameBuffer.pixel fb x y ^^ decide ((x, y) ∈ spritePixels x0.toNat y0.toNat sprite)) :=
  pixel_togglePixels_nodup (nodup_spritePixels h) fb x y

/-- `any_erased` says that a pixel under the sprite was lit (R110). -/
theorem anyErased_xorDraw {sprite : List Byte} (h : sprite.length ≤ 32) (fb : FrameBuffer) (x0 y0 : Byte) :
    (xorDraw fb x0 y0 sprite).anyErased = true ↔
      ∃ x y, FrameBuffer.pixel fb x y = true ∧ (x, y) ∈ spritePixels x0.toNat y0.toNat sprite := by
  rw [xorDraw, anyErased_togglePixels (nodup_spritePixels h), List.any_eq_true]
  exact ⟨fun ⟨p, hp, hlit⟩ => ⟨p.1, p.2, hlit, hp⟩, fun ⟨x, y, hlit, hp⟩ => ⟨(x, y), hp, hlit⟩⟩

theorem xorDraw_twice {sprite : List Byte} (h : sprite.length ≤ 32) (fb : FrameBuffer) (x0 y0 : Byte) :
    (xorDraw (xorDraw fb x0 y0 sprite).fb x0 y0 sprite).fb = fb := by
  apply frameBuffer_ext
  intro x y
  rw [pixel_xorDraw h, pixel_xorDraw h, Bool.xor_assoc, Bool.xor_self, Bool.xor_false]

/-- A byte that is not zero has a bit of 1, counted from the left. -/
theorem exists_bit_of_ne_zero {b : Byte} (h : b ≠ 0#8) : ∃ c, c < 8 ∧ b.getLsbD (7 - c) = true := by
  by_contra hnone
  push Not at hnone
  refine h (BitVec.eq_of_getLsbD_eq fun j hj => ?_)
  have := hnone (7 - j) (by omega)
  rw [show 7 - (7 - j) = j by omega] at this
  simpa using this

/-- A sprite with a byte that is not zero covers a pixel. -/
theorem exists_mem_spritePixels {sprite : List Byte} {b : Byte} (hb : b ∈ sprite) (hne : b ≠ 0#8) (x0 y0 : Nat) :
    ∃ x y, (x, y) ∈ spritePixels x0 y0 sprite := by
  obtain ⟨k, hk, rfl⟩ := List.mem_iff_getElem.mp hb
  obtain ⟨c, hc, hbit⟩ := exists_bit_of_ne_zero hne
  exact ⟨_, _, mem_spritePixels.mpr ⟨k, c, hk, hc, by rwa [List.getD_eq_getElem _ _ hk], rfl⟩⟩

/-- Settles O37: with no pixel covered twice a draw flips exactly the pixels under the sprite, so a second one flips
them back, and finds lit what the first found unlit. -/
theorem drawingTwiceRestoresTheScreen : Obligations.DrawingTwiceRestoresTheScreen := by
  unfold Obligations.DrawingTwiceRestoresTheScreen
  intro fb x0 y0 sprite hlen
  have h : sprite.length ≤ 32 := by omega
  refine ⟨xorDraw_twice h fb x0 y0, ?_, fun hnone ⟨b, hb, hne⟩ => ?_⟩
  · rw [anyErased_xorDraw h]
    constructor
    · rintro ⟨x, y, hlit, hmem⟩
      obtain ⟨r, c, hr, hc, hbit, hp⟩ := mem_spritePixels.mp hmem
      cases hp
      exact ⟨r, c, hr, hc, hbit, hlit⟩
    · rintro ⟨r, c, hr, hc, hbit, hlit⟩
      exact ⟨_, _, hlit, mem_spritePixels.mpr ⟨r, c, hr, hc, hbit, rfl⟩⟩
  · obtain ⟨x, y, hmem⟩ := exists_mem_spritePixels hb hne x0.toNat y0.toNat
    have hunlit : FrameBuffer.pixel fb x y = false := by
      by_contra hlit
      rw [(anyErased_xorDraw h fb x0 y0).mpr ⟨x, y, by simpa using hlit, hmem⟩] at hnone
      cases hnone
    refine (anyErased_xorDraw h _ x0 y0).mpr ⟨x, y, ?_, hmem⟩
    rw [pixel_xorDraw h, hunlit]
    simpa using hmem

/-! ### DRW -/

theorem exec_drw (x y : Reg) (n : Nibble) (s : State) :
    exec (.drw x y n) s = .next (s.advance.dispatch (.draw (s.reg x) (s.reg y) s.i.toNat n.toNat)) := rfl

/-- Lying under a bit of the sprite in memory is being one of the pixels the engine toggles. -/
theorem underSpriteBit_iff {m : Memory} {x0 y0 a n : Nat} {x : Col} {y : Row} :
    UnderSpriteBit m x0 y0 a n x y ↔ (x, y) ∈ spritePixels x0 y0 (Memory.readBytes m a n) := by
  rw [mem_spritePixels]
  simp only [UnderSpriteBit, length_readBytes, Prod.mk.injEq, Fin.ext_iff, wrapCol, wrapRow]
  constructor
  · rintro ⟨r, c, hr, hc, hbit, hp⟩
    exact ⟨r, c, hr, hc, by rwa [readBytes_getD, if_pos hr], hp⟩
  · rintro ⟨r, c, hr, hc, hbit, hp⟩
    rw [readBytes_getD, if_pos hr] at hbit
    exact ⟨r, c, hr, hc, hbit, hp⟩

theorem flagByte_eq_one_iff (c : Bool) : flagByte c = 1#8 ↔ c = true := by cases c <;> decide

/-- Settles O35: the sprite fits in memory or the draw is fatal; where it fits, the engine's pixels are those under its
bits. -/
theorem drwXorsTheSpriteOntoTheScreen : Obligations.DrwXorsTheSpriteOntoTheScreen := by
  unfold Obligations.DrwXorsTheSpriteOntoTheScreen
  intro x y n
  refine ⟨decodeWord_wordXYN 0xD#4 n rfl rfl, fun s => ?_⟩
  rw [exec_drw]
  rcases dispatch_draw_cases s.advance (s.reg x) (s.reg y) s.i.toNat n.toNat with ⟨hfit, e⟩ | ⟨hover, e⟩
  · refine ⟨fun _ => ?_, fun hover => absurd hfit (Nat.not_le.mpr hover)⟩
    have hrows : (Memory.readBytes s.mem s.i.toNat n.toNat).length ≤ 32 := by
      rw [length_readBytes]
      omega
    refine ⟨(xorDraw s.fb (s.reg x) (s.reg y) (Memory.readBytes s.mem s.i.toNat n.toNat)).fb,
      flagByte (xorDraw s.fb (s.reg x) (s.reg y) (Memory.readBytes s.mem s.i.toNat n.toNat)).anyErased, ?_,
      fun px py => ?_, ?_, ?_⟩
    · rw [e]
      rfl
    · rw [pixel_xorDraw hrows, underSpriteBit_iff, State.reg, State.reg]
      cases FrameBuffer.pixel s.fb px py <;> simp
    · cases (xorDraw s.fb (s.reg x) (s.reg y) (Memory.readBytes s.mem s.i.toNat n.toNat)).anyErased <;> simp [flagByte]
    · rw [flagByte_eq_one_iff, anyErased_xorDraw hrows]
      simp only [underSpriteBit_iff, State.reg]
  · refine ⟨fun hfit => absurd hover (Nat.not_lt.mpr hfit), fun _ => ?_⟩
    rw [e]
    rfl

end Sys2Proof.Proofs
end

section
/-! What an instruction changes (spec/10_state.md, spec/60_exceptions.md R142): the fatals, the registers and the rest
of the state. -/

namespace Sys2Proof.Proofs

open Sys2Proof.Machine Sys2Proof.Laws Sys2Proof.Claim

/-! ### Fatals -/

/-- Settles O54: RET and CALL are decided by the stack, the six instructions with a bounds test or a key check by that
test, and no other instruction writes `RUN`. -/
theorem onlyTheseInstructionsAreFatal : Obligations.OnlyTheseInstructionsAreFatal := by
  unfold Obligations.OnlyTheseInstructionsAreFatal
  intro i s t hrun h hended
  cases i
  case ret =>
    by_cases hstack : s.stack = []
    · rw [exec_ret_of_nil hstack] at h
      injection h with h
      exact .inl ⟨rfl, hstack, h.symm⟩
    · obtain ⟨w, rest, hcons⟩ := List.exists_cons_of_ne_nil hstack
      rw [exec_ret_of_cons hcons] at h
      injection h with h
      subst h
      exact absurd hrun hended
  case call nnn =>
    rcases Nat.lt_or_ge s.stack.length 16 with hlen | hlen
    · rw [exec_call_of_lt nnn hlen] at h
      injection h with h
      subst h
      exact absurd hrun hended
    · rw [exec_call_of_le nnn hlen] at h
      injection h with h
      exact .inr (.inl ⟨nnn, rfl, hlen, h.symm⟩)
  case skp x =>
    rw [exec_skp] at h
    injection h with h
    subst h
    rcases checkKey_cases s (s.reg x) true with ⟨_, e⟩ | ⟨hcode, e⟩ <;> rw [e] at hended ⊢
    · exact absurd hrun hended
    · exact .inr (.inr (.inl ⟨x, .inl rfl, hcode, rfl⟩))
  case sknp x =>
    rw [exec_sknp] at h
    injection h with h
    subst h
    rcases checkKey_cases s (s.reg x) false with ⟨_, e⟩ | ⟨hcode, e⟩ <;> rw [e] at hended ⊢
    · exact absurd hrun hended
    · exact .inr (.inr (.inl ⟨x, .inr rfl, hcode, rfl⟩))
  case drw x y n =>
    rw [exec_drw] at h
    injection h with h
    subst h
    rcases dispatch_draw_cases s.advance (s.reg x) (s.reg y) s.i.toNat n.toNat with ⟨_, e⟩ | ⟨hover, e⟩ <;>
      rw [e] at hended ⊢
    · exact absurd hrun hended
    · exact .inr (.inr (.inr (.inl ⟨x, y, n, rfl, hover, rfl⟩)))
  case ldB x =>
    rw [exec_ldB] at h
    injection h with h
    subst h
    rcases dispatch_memDump_cases s.advance s.i.toNat (bcdDigits (s.reg x)) with ⟨_, e⟩ | ⟨hover, e⟩ <;>
      rw [e] at hended ⊢
    · exact absurd hrun hended
    · exact .inr (.inr (.inr (.inr (.inl ⟨x, rfl, hover, rfl⟩))))
  case ldMemVx x =>
    rw [exec_ldMemVx] at h
    injection h with h
    subst h
    rcases dispatch_memDump_cases (s.setI (s.iAfterBulk x)).advance s.i.toNat (s.regsUpTo x) with
      ⟨_, e⟩ | ⟨hover, e⟩ <;> rw [e] at hended ⊢
    · exact absurd hrun hended
    · rw [length_regsUpTo] at hover
      exact .inr (.inr (.inr (.inr (.inr ⟨x, .inl rfl, hover, rfl⟩))))
  case ldVxMem x =>
    rcases Nat.lt_or_ge 4096 (s.i.toNat + x.val + 1) with hover | hfit
    · rw [exec_ldVxMem_of_lt hover] at h
      injection h with h
      exact .inr (.inr (.inr (.inr (.inr ⟨x, .inr rfl, hover, h.symm⟩))))
    · rw [exec_ldVxMem_of_le hfit] at h
      injection h with h
      subst h
      exact absurd hrun hended
  all_goals
    injection h with h
    subst h
    exact absurd hrun hended

/-- An instruction leaves a running machine running, or faulted with a cause that is no unknown word (R142). -/
theorem exec_run_cases {i : Instr} {s t : State} (hrun : s.run = .running) (h : exec i s = .next t) :
    t.run = .running ∨ ∃ c, t.run = .faulted c ∧ ∀ w, c ≠ .unknownOpcode w := by
  by_cases hended : t.run = .running
  · exact .inl hended
  · right
    rcases onlyTheseInstructionsAreFatal i s t hrun h hended with ⟨_, _, e⟩ | ⟨_, _, _, e⟩ | ⟨_, _, _, e⟩ |
      ⟨_, _, _, _, _, e⟩ | ⟨_, _, _, e⟩ | ⟨_, _, _, e⟩ <;> subst e <;> exact ⟨_, rfl, fun _ hc => by cases hc⟩

/-- Fetch, decode and execute leave a running machine running or faulted; an unknown word is the one fetched (R143). -/
theorem executeOne_run_cases {s t : State} (hrun : s.run = .running) (h : executeOne s = .next t) :
    t.run = .running ∨ ∃ c, t.run = .faulted c ∧
      ∀ w, c = .unknownOpcode w → decodeWord w = none ∧ w = fetchedWord s ∧ s.pc.toNat < 0x0FFF := by
  rcases executeOne_cases s with ⟨_, e⟩ | ⟨w, hfetch, hnone, e⟩ | ⟨_, i, _, _, e⟩ <;> rw [e] at h
  · injection h with h
    exact .inr ⟨.fetchOutOfRange, h ▸ raiseDecode_run _ s, nofun⟩
  · injection h with h
    refine .inr ⟨_, h ▸ raiseDecode_run _ s, fun w' hw => ?_⟩
    cases hw
    obtain ⟨hpc, hword⟩ := fetch_eq_some_iff.mp hfetch
    exact ⟨hnone, hword.symm, hpc⟩
  · rcases exec_run_cases hrun h with hlive | ⟨c, hc, hknown⟩
    · exact .inl hlive
    · exact .inr ⟨c, hc, fun w hw => absurd hw (hknown w)⟩

theorem frameAfter_run (s u : State) : (frameAfter s u).run = u.run := by
  unfold frameAfter
  split <;> rfl

/-- Settles O53: the decode fails after a fetch in range; and of all a frame can do, only that raises this cause. -/
theorem unknownWordStopsWithDumpOnlyIfFetched : Obligations.UnknownWordStopsWithDumpOnlyIfFetched := by
  unfold Obligations.UnknownWordStopsWithDumpOnlyIfFetched
  refine ⟨fun s t60 hready hunknown => ?_, fun s t w hrun hstep hcause => ?_⟩
  · obtain ⟨hrun, hms, hpc, hev, ht⟩ := hready
    refine step_of_decodeError hrun hms hev ht ?_
    have hfetch : State.fetch { s with out := FrameOutput.empty } = some (fetchedWord s) := fetch_of_lt hpc
    simp only [executeOne, hfetch, hunknown]
  · rcases step_next_cases hstep with ⟨hended, _⟩ | ⟨_, _, e⟩ | ⟨_, _, _, e⟩ | ⟨_, _, _, _, u, hu, e⟩
    · exact absurd hrun hended
    · rw [e, exitFrame_run] at hcause
      cases hcause
    · rw [e] at hcause
      cases hcause.symm.trans ((inputTaken_same s).run.trans hrun)
    · rw [e, frameAfter_run] at hcause
      rcases executeOne_run_cases ((inputTaken_same s).run.trans hrun) hu with hlive | ⟨c, hc, hknown⟩
      · cases hcause.symm.trans hlive
      · rw [fetchedWord_inputTaken, (inputTaken_same s).pc] at hknown
        exact hknown w (RunStatus.faulted.inj (hc.symm.trans hcause))

/-! ### Registers -/

/-- What a descriptor of phase 2 makes of the state when its bounds test or key check does not fail (R130). -/
def carriedOut (s : State) : SideEffect → State
  | .clearDisplay => s.clearDisplay
  | .draw x0 y0 a n => s.drawSprite x0 y0 (Memory.readBytes s.mem a n)
  | .memDump a bytes => { s with mem := Memory.writeBytes s.mem a bytes }
  | .memRead a n => s.loadRegs (Memory.readBytes s.mem a n)
  | .waitKeyPress r => { s with ms := .waitKeyPress r }
  | .checkKeyPressed k => s.skipIf (s.key[k.toNat]?.getD false == true)
  | .checkKeyReleased k => s.skipIf (s.key[k.toNat]?.getD false == false)

theorem checkKey_eq_skipIf_or_raise (s : State) (k : Byte) (want : Bool) :
    s.checkKey k want = s.skipIf (s.key[k.toNat]?.getD false == want) ∨ s.checkKey k want = s.raise .keyIndex := by
  rcases checkKey_cases s k want with ⟨h, e⟩ | ⟨_, e⟩
  · exact .inl (by rw [e, Vector.getElem?_eq_getElem h]; rfl)
  · exact .inr e

/-- Phase 2 carries its descriptor out, or writes `RUN` alone. -/
theorem dispatch_cases (s : State) (fx : SideEffect) :
    s.dispatch fx = carriedOut s fx ∨ ∃ c, s.dispatch fx = s.raise c := by
  cases fx with
  | clearDisplay => exact .inl rfl
  | waitKeyPress r => exact .inl rfl
  | draw x0 y0 a n => exact (dispatch_draw_cases s x0 y0 a n).imp And.right fun h => ⟨_, h.2⟩
  | memDump a bytes => exact (dispatch_memDump_cases s a bytes).imp And.right fun h => ⟨_, h.2⟩
  | memRead a n => exact (dispatch_memRead_cases s a n).imp And.right fun h => ⟨_, h.2⟩
  | checkKeyPressed k => exact (checkKey_eq_skipIf_or_raise s k true).imp id fun h => ⟨_, h⟩
  | checkKeyReleased k => exact (checkKey_eq_skipIf_or_raise s k false).imp id fun h => ⟨_, h⟩

/-- Of the descriptors of phase 2, only a draw and a memory read write registers. -/
theorem dispatch_reg (s : State) {fx : SideEffect} (hdraw : ∀ x0 y0 a n, fx ≠ .draw x0 y0 a n)
    (hread : ∀ a n, fx ≠ .memRead a n) (r : Reg) : (s.dispatch fx).reg r = s.reg r := by
  rcases dispatch_cases s fx with e | ⟨c, e⟩ <;> rw [e]
  · cases fx with
    | draw x0 y0 a n => exact absurd rfl (hdraw x0 y0 a n)
    | memRead a n => exact absurd rfl (hread a n)
    | _ => rfl
  · rfl

/-- A draw writes no register but `VF`. -/
theorem dispatch_draw_reg (s : State) (x0 y0 : Byte) (a n : Nat) {r : Reg} (hr : r ≠ vf) :
    (s.dispatch (.draw x0 y0 a n)).reg r = s.reg r := by
  rcases dispatch_draw_cases s x0 y0 a n with ⟨_, e⟩ | ⟨_, e⟩ <;> rw [e]
  · exact setReg_reg_other hr.symm _ s
  · rfl

/-- Settles O55: each instruction's writes of registers are one write of its destination, that write and one of `VF`,
the loaded block, or none. -/
theorem registersChangeOnlyAsNamed : Obligations.RegistersChangeOnlyAsNamed := by
  unfold Obligations.RegistersChangeOnlyAsNamed
  intro i s t h r hr
  show t.reg r = s.reg r
  cases i
  case ldImm | addImm | ldReg | or | and | xor | rnd | ldVxDt =>
    injection h with h
    subst h
    exact setReg_reg_other (Ne.symm hr) _ s
  case addReg | sub | shr | subn | shl =>
    injection h with h
    subst h
    obtain ⟨hx, hvf⟩ := not_or.mp hr
    exact setRegAndFlag_reg_other (Ne.symm hx) hvf _ _ s
  case drw =>
    injection h with h
    subst h
    exact dispatch_draw_reg _ _ _ _ _ hr
  case ldVxMem x =>
    rcases Nat.lt_or_ge 4096 (s.i.toNat + x.val + 1) with hover | hfit
    · rw [exec_ldVxMem_of_lt hover] at h
      injection h with h
      subst h
      rfl
    · rw [exec_ldVxMem_of_le hfit] at h
      injection h with h
      subst h
      exact (loadRegs_readBytes_reg _ _ _ x r).trans (if_neg hr)
  case ret =>
    simp only [exec, execRet] at h
    split at h <;> (injection h with h; subst h; rfl)
  case call =>
    simp only [exec, execCall] at h
    split at h <;> (injection h with h; subst h; rfl)
  case cls | skp | sknp | ldVxK | ldB | ldMemVx =>
    injection h with h
    subst h
    refine (dispatch_reg _ ?_ ?_ r).trans rfl <;> nofun
  all_goals
    injection h with h
    subst h
    rfl

/-! ### The rest of the state -/

/-- Two states agree on `I`, the stack, the timers and the dump. -/
structure SameCore (s t : State) : Prop where
  i     : t.i = s.i
  stack : t.stack = s.stack
  dt    : t.dt = s.dt
  st    : t.st = s.st
  dump  : t.out.dump = s.out.dump

/-- No descriptor of phase 2 writes `I`, the stack, a timer or the dump (R130). -/
theorem dispatch_sameCore (s : State) (fx : SideEffect) : SameCore s (s.dispatch fx) := by
  rcases dispatch_cases s fx with e | ⟨c, e⟩ <;> rw [e]
  · cases fx <;> exact ⟨rfl, rfl, rfl, rfl, rfl⟩
  · exact ⟨rfl, rfl, rfl, rfl, rfl⟩

@[simp] theorem dispatch_i (s : State) (fx : SideEffect) : (s.dispatch fx).i = s.i := (dispatch_sameCore s fx).i
@[simp] theorem dispatch_stack (s : State) (fx : SideEffect) : (s.dispatch fx).stack = s.stack :=
  (dispatch_sameCore s fx).stack
@[simp] theorem dispatch_dt (s : State) (fx : SideEffect) : (s.dispatch fx).dt = s.dt := (dispatch_sameCore s fx).dt
@[simp] theorem dispatch_st (s : State) (fx : SideEffect) : (s.dispatch fx).st = s.st := (dispatch_sameCore s fx).st
@[simp] theorem dispatch_dump (s : State) (fx : SideEffect) : (s.dispatch fx).out.dump = s.out.dump :=
  (dispatch_sameCore s fx).dump

/-- Only the two display descriptors write the framebuffer. -/
theorem dispatch_fb (s : State) {fx : SideEffect} (hclear : fx ≠ .clearDisplay)
    (hdraw : ∀ x0 y0 a n, fx ≠ .draw x0 y0 a n) : (s.dispatch fx).fb = s.fb := by
  rcases dispatch_cases s fx with e | ⟨c, e⟩ <;> rw [e]
  · cases fx with
    | clearDisplay => exact absurd rfl hclear
    | draw x0 y0 a n => exact absurd rfl (hdraw x0 y0 a n)
    | _ => rfl
  · rfl

/-- Only the two display descriptors write the outputs. -/
theorem dispatch_out (s : State) {fx : SideEffect} (hclear : fx ≠ .clearDisplay)
    (hdraw : ∀ x0 y0 a n, fx ≠ .draw x0 y0 a n) : (s.dispatch fx).out = s.out := by
  rcases dispatch_cases s fx with e | ⟨c, e⟩ <;> rw [e]
  · cases fx with
    | clearDisplay => exact absurd rfl hclear
    | draw x0 y0 a n => exact absurd rfl (hdraw x0 y0 a n)
    | _ => rfl
  · rfl

/-- Only the key wait writes `MS`. -/
theorem dispatch_ms (s : State) {fx : SideEffect} (hwait : ∀ r, fx ≠ .waitKeyPress r) : (s.dispatch fx).ms = s.ms := by
  rcases dispatch_cases s fx with e | ⟨c, e⟩ <;> rw [e]
  · cases fx with
    | waitKeyPress r => exact absurd rfl (hwait r)
    | _ => rfl
  · rfl

/-- What an instruction keeps, by the instructions that are named for each field. -/
structure FieldsKept (instr : Instr) (s t : State) : Prop where
  stack  : (∀ nnn, instr ≠ .call nnn) → instr ≠ .ret → t.stack = s.stack
  i      : (∀ nnn, instr ≠ .ldI nnn) →
    (∀ x, instr ≠ .addI x ∧ instr ≠ .ldF x ∧ instr ≠ .ldMemVx x ∧ instr ≠ .ldVxMem x) → t.i = s.i
  dt     : (∀ x, instr ≠ .ldDtVx x) → t.dt = s.dt
  st     : (∀ x, instr ≠ .ldStVx x) → t.st = s.st
  screen : instr ≠ .cls → (∀ x y n, instr ≠ .drw x y n) → t.fb = s.fb ∧ t.out = s.out
  ms     : (∀ x, instr ≠ .ldVxK x) → t.ms = s.ms
  dump   : t.out.dump = s.out.dump

/-- RET writes `PC`, the stack and `RUN` at most. -/
theorem exec_ret_eq {s t : State} (h : exec .ret s = .next t) :
    t = { s with pc := t.pc, stack := t.stack, run := t.run } := by
  simp only [exec, execRet] at h
  split at h <;> (injection h with h; subst h; rfl)

/-- CALL writes `PC`, the stack and `RUN` at most. -/
theorem exec_call_eq {nnn : Addr12} {s t : State} (h : exec (.call nnn) s = .next t) :
    t = { s with pc := t.pc, stack := t.stack, run := t.run } := by
  simp only [exec, execCall] at h
  split at h <;> (injection h with h; subst h; rfl)

theorem exec_fieldsKept {i : Instr} {s t : State} (h : exec i s = .next t) : FieldsKept i s t := by
  cases i
  case ret =>
    rw [exec_ret_eq h]
    constructor <;> simp
  case call =>
    rw [exec_call_eq h]
    constructor <;> simp
  case cls | drw | skp | sknp | ldVxK | ldB | ldMemVx | ldVxMem =>
    injection h with h
    subst h
    constructor <;> simp [dispatch_fb, dispatch_out, dispatch_ms]
  all_goals
    injection h with h
    subst h
    constructor <;> simp

/-- Settles O57: an instruction keeps every field it is not named for, and all that only the frame sequencer writes. -/
theorem otherStateChangesOnlyAsNamed : Obligations.OtherStateChangesOnlyAsNamed := by
  unfold Obligations.OtherStateChangesOnlyAsNamed
  intro i s t h
  obtain ⟨hstack, hi, hdt, hst, hscreen, hms, hdump⟩ := exec_fieldsKept h
  obtain ⟨hclock, hgateCpu, hgate60, hkey, hinputs, hframe⟩ := exec_sameEnv h
  exact ⟨hstack, hi, hdt, hst, hscreen, hms, exec_beep h, hdump, hkey, hgateCpu, hgate60, hclock, hinputs, hframe⟩

/-! ### The random byte -/

/-- The state with other inputs to come. -/
def withInputs (inputs : List FrameInput) (s : State) : State := { s with inputs := inputs }

theorem withInputs_run (inputs : List FrameInput) (s : State) : (withInputs inputs s).run = s.run := rfl

/-- Phase 2 reads no input. -/
theorem dispatch_withInputs (inputs : List FrameInput) (s : State) (fx : SideEffect) :
    (withInputs inputs s).dispatch fx = withInputs inputs (s.dispatch fx) := by
  cases fx with
  | clearDisplay => rfl
  | waitKeyPress r => rfl
  | draw x0 y0 a n =>
    simp only [State.dispatch, State.memRead]
    cases inBounds a n <;> rfl
  | memDump a bytes =>
    simp only [State.dispatch, State.memWrite]
    cases inBounds a bytes.length <;> rfl
  | memRead a n =>
    simp only [State.dispatch, State.memRead]
    cases inBounds a n <;> rfl
  | checkKeyPressed k =>
    simp only [State.dispatch, State.checkKey]
    split <;> rfl
  | checkKeyReleased k =>
    simp only [State.dispatch, State.checkKey]
    split <;> rfl

/-- No instruction but RND reads an input (R96). -/
theorem exec_withInputs {i : Instr} (inputs : List FrameInput) (s : State) (hrnd : ∀ x nn, i ≠ .rnd x nn) :
    exec i (withInputs inputs s) = onNext (withInputs inputs) (exec i s) := by
  cases i
  case rnd x nn => exact absurd rfl (hrnd x nn)
  case ret =>
    by_cases hstack : s.stack = []
    · rw [exec_ret_of_nil hstack, exec_ret_of_nil (s := withInputs inputs s) hstack]
      rfl
    · obtain ⟨w, rest, hcons⟩ := List.exists_cons_of_ne_nil hstack
      rw [exec_ret_of_cons hcons, exec_ret_of_cons (s := withInputs inputs s) hcons]
      rfl
  case call nnn =>
    rcases Nat.lt_or_ge s.stack.length 16 with hlen | hlen
    · rw [exec_call_of_lt nnn hlen, exec_call_of_lt (s := withInputs inputs s) nnn hlen]
      rfl
    · rw [exec_call_of_le nnn hlen, exec_call_of_le (s := withInputs inputs s) nnn hlen]
      rfl
  case skp | sknp => exact congrArg Host.Outcome.next (dispatch_withInputs inputs s _)
  case cls | drw | ldVxK | ldB => exact congrArg Host.Outcome.next (dispatch_withInputs inputs s.advance _)
  case ldMemVx | ldVxMem => exact congrArg Host.Outcome.next (dispatch_withInputs inputs (s.setI _).advance _)
  all_goals rfl

theorem fetch_withInputs (inputs : List FrameInput) (s : State) : (withInputs inputs s).fetch = s.fetch := rfl

/-- Fetch, decode and execute read no input unless the fetched word decodes to RND. -/
theorem executeOne_withInputs (inputs : List FrameInput) {s : State}
    (hrnd : ∀ w x nn, s.fetch = some w → decodeWord w ≠ some (.rnd x nn)) :
    executeOne (withInputs inputs s) = onNext (withInputs inputs) (executeOne s) := by
  unfold executeOne
  rw [fetch_withInputs]
  cases hfetch : s.fetch with
  | none => rfl
  | some w =>
    cases hdecode : decodeWord w with
    | none => simp only [hdecode]; rfl
    | some i =>
      simp only [hdecode]
      exact exec_withInputs inputs s fun x nn e => hrnd w x nn hfetch (e ▸ hdecode)

/-- Step 3 begins in states that differ in the inputs alone. -/
theorem inputTaken_cons_rnd (s : State) (inp : FrameInput) (rest : List FrameInput) (b : Byte) :
    inputTaken (withInputs ({ inp with rnd := b } :: rest) s) =
      withInputs ({ inp with rnd := b } :: rest) (inputTaken (withInputs (inp :: rest) s)) := by
  have hms : ∀ inputs, (withInputs inputs s).ms = s.ms := fun _ => rfl
  unfold inputTaken
  rw [hms, hms]
  obtain ⟨ev, time, rnd⟩ := inp
  cases ev <;> cases s.ms <;> rfl

/-- Step 5 uses the differing input up. -/
theorem frameEnd_cons_rnd (s u : State) (inp : FrameInput) (rest : List FrameInput) (b : Byte)
    (hu : u.inputs = inp :: rest) :
    frameEnd (withInputs ({ inp with rnd := b } :: rest) s) (withInputs ({ inp with rnd := b } :: rest) u) =
      frameEnd (withInputs (inp :: rest) s) u := by
  have htail : rest = u.inputs.tail := by rw [hu]; rfl
  subst htail
  rfl

/-- Settles O58: the two frames begin their step 3 in states that differ in the inputs alone, and step 3 keeps it so
unless it executes RND; step 5 then uses the inputs up. -/
theorem randomByteReachesOnlyRnd : Obligations.RandomByteReachesOnlyRnd := by
  unfold Obligations.RandomByteReachesOnlyRnd
  intro s t inp rest b hno hstep
  change ¬ ExecutesRnd (withInputs (inp :: rest) s) at hno
  change step (withInputs (inp :: rest) s) = .next t at hstep
  change step (withInputs ({ inp with rnd := b } :: rest) s) =
    .next (if t.run = .running then t else withInputs ({ inp with rnd := b } :: rest) t)
  have hinput := inputTaken_cons_rnd s inp rest b
  have hsame := inputTaken_same (withInputs (inp :: rest) s)
  rcases step_next_cases hstep with ⟨hended, rfl⟩ | ⟨hrun, hexit, rfl⟩ | ⟨hrun, hev, hnone, rfl⟩ |
    ⟨hrun, hev, hcpu, hms, u, hu, rfl⟩
  · rw [if_neg (by exact hended)]
    exact step_of_ended hended
  · exact exitStopsBeforeAnythingElse _ hrun hexit
  · have hlive : (frameEnd (withInputs (inp :: rest) s) (inputTaken (withInputs (inp :: rest) s))).run = .running :=
      hsame.run.trans hrun
    rw [if_pos hlive, ← frameEnd_cons_rnd s _ inp rest b hsame.inputs, ← hinput]
    exact step_of_no_instruction hrun hev (by rw [hinput]; exact hnone)
  · have hrnd : ∀ w x nn, (inputTaken (withInputs (inp :: rest) s)).fetch = some w →
        decodeWord w ≠ some (.rnd x nn) := by
      intro w x nn hfetch hdecode
      obtain ⟨hpc, hword⟩ := fetch_eq_some_iff.mp hfetch
      rw [hsame.pc] at hpc
      rw [fetchedWord_inputTaken] at hword
      exact hno ⟨hrun, hev, hcpu, hms, hpc, x, nn, hword ▸ hdecode⟩
    have hone : executeOne (inputTaken (withInputs ({ inp with rnd := b } :: rest) s)) =
        .next (withInputs ({ inp with rnd := b } :: rest) u) := by
      rw [hinput, executeOne_withInputs _ hrnd, hu]
      rfl
    rw [frameAfter_run, step_of_executeOne (s := withInputs ({ inp with rnd := b } :: rest) s) hrun hev hcpu
      (by rw [hinput]; exact hms) hone]
    by_cases hlive : u.run = .running
    · rw [if_pos hlive, frameAfter_running hlive, frameAfter_running ((withInputs_run _ u).trans hlive),
        frameEnd_cons_rnd s u inp rest b ((executeOne_sameEnv hu).inputs.trans hsame.inputs)]
    · rw [if_neg hlive, frameAfter_ended hlive, frameAfter_ended (withInputs_run _ u ▸ hlive)]

end Sys2Proof.Proofs
end

section
/-! What every frame keeps: the render events tell the screen (spec/43_display.md R111), and the machine's invariant
(spec/10_state.md R19, R20, R25). -/

namespace Sys2Proof.Proofs

open Sys2Proof.Machine Sys2Proof.Laws Sys2Proof.Claim

/-! ### The replay of the render events -/

/-- From `s` to `t` render events were emitted that, replayed on the framebuffer of `s`, give that of `t`. -/
def ReplaysTo (s t : State) : Prop :=
  ∃ events, t.out.render = s.out.render ++ events ∧ t.fb = replayEvents s.fb events

/-- Where neither the framebuffer nor the outputs change, nothing was emitted. -/
theorem ReplaysTo.of_eq {s t : State} (hfb : t.fb = s.fb) (hout : t.out = s.out) : ReplaysTo s t :=
  ⟨[], by rw [hout, List.append_nil], hfb⟩

/-- An instruction emits the events of what it does to the screen (R106, R107, R111). -/
theorem exec_replaysTo {i : Instr} {s t : State} (h : exec i s = .next t) : ReplaysTo s t := by
  by_cases hscreen : i = .cls ∨ ∃ x y n, i = .drw x y n
  · rcases hscreen with rfl | ⟨x, y, n, rfl⟩
    · rw [exec_cls] at h
      injection h with h
      subst h
      exact ⟨[.clear], rfl, rfl⟩
    · rw [exec_drw] at h
      injection h with h
      subst h
      rcases dispatch_draw_cases s.advance (s.reg x) (s.reg y) s.i.toNat n.toNat with ⟨_, e⟩ | ⟨_, e⟩ <;> rw [e]
      · exact ⟨_, rfl, (replay_togglePixels _ _).symm⟩
      · exact .of_eq rfl rfl
  · obtain ⟨hcls, hdrw⟩ := not_or.mp hscreen
    obtain ⟨hfb, hout⟩ := (exec_fieldsKept h).screen hcls fun x y n e => hdrw ⟨x, y, n, e⟩
    exact .of_eq hfb hout

/-- Fetch, decode and execute emit the events of what they do to the screen; a decode error emits a dump and no
event. -/
theorem executeOne_replaysTo {s t : State} (h : executeOne s = .next t) : ReplaysTo s t := by
  rcases executeOne_cases s with ⟨_, e⟩ | ⟨_, _, _, e⟩ | ⟨_, i, _, _, e⟩ <;> rw [e] at h
  · injection h with h
    subst h
    exact ⟨[], (List.append_nil _).symm, rfl⟩
  · injection h with h
    subst h
    exact ⟨[], (List.append_nil _).symm, rfl⟩
  · exact exec_replaysTo h

/-- Steps 4 and 5 emit no render event and leave the screen. -/
theorem frameAfter_screen (s u : State) : (frameAfter s u).fb = u.fb ∧ (frameAfter s u).out.render = u.out.render := by
  unfold frameAfter
  split <;> exact ⟨rfl, rfl⟩

/-- Settles O38: a frame begins with no event emitted and the old screen, its instruction emits what it draws, and its
other steps leave both. -/
theorem framebufferIsTheReplayOfEvents : Obligations.FramebufferIsTheReplayOfEvents := by
  unfold Obligations.FramebufferIsTheReplayOfEvents
  intro s t hstep
  rcases step_next_cases hstep with ⟨_, rfl⟩ | ⟨_, _, rfl⟩ | ⟨_, _, _, rfl⟩ | ⟨_, _, _, _, u, hu, rfl⟩
  · rfl
  · rfl
  · change (inputTaken s).fb = replayEvents s.fb (inputTaken s).out.render
    rw [inputTaken_out, (inputTaken_same s).fb]
    rfl
  · obtain ⟨events, hrender, hfb⟩ := executeOne_replaysTo hu
    obtain ⟨hfb', hrender'⟩ := frameAfter_screen s u
    rw [hfb', hrender', hrender, hfb, inputTaken_out, (inputTaken_same s).fb]
    rfl

/-! ### The parts of the invariant -/

theorem inv_iff (s : State) : s.inv = true ↔ Memory.wf s.mem = true ∧ s.stackOk = true ∧ s.pcOk = true ∧
    s.keysQuiet = true ∧ s.gatesOk = true := by
  simp [State.inv, and_assoc]

theorem stackOk_iff (s : State) : s.stackOk = true ↔ s.stack.length ≤ 16 ∧ ∀ w ∈ s.stack, w.toNat < 0x0FFF := by
  simp only [State.stackOk, Bool.and_eq_true, decide_eq_true_eq, List.all_eq_true]
  rfl

theorem pcOk_iff (s : State) : s.pcOk = true ↔ s.pc.toNat ≤ 0x10FE := decide_eq_true_iff

theorem gatesOk_iff (s : State) : s.gatesOk = true ↔ s.gateCpu ≤ s.clock ∧ s.gate60 ≤ s.clock := by
  simp [State.gatesOk]

theorem keysQuiet_of_noKeys {s : State} (h : s.key = noKeys) : s.keysQuiet = true := by
  have hnone : noKeys.toList.count true ≤ 1 := by decide
  unfold State.keysQuiet
  cases s.run with
  | running => exact decide_eq_true h
  | stopped => exact decide_eq_true h
  | faulted c => exact decide_eq_true (h ▸ hnone)

theorem keysQuiet_of_faulted {s : State} {c : Fault} (hrun : s.run = .faulted c) (h : s.key.toList.count true ≤ 1) :
    s.keysQuiet = true := by
  unfold State.keysQuiet
  rw [hrun]
  exact decide_eq_true h

theorem key_of_keysQuiet {s : State} (hrun : s.run = .running) (h : s.keysQuiet = true) : s.key = noKeys := by
  unfold State.keysQuiet at h
  rw [hrun] at h
  exact of_decide_eq_true h

/-! ### Reset -/

/-- Settles O2: the image is loaded into memory and everything else is written out by the reset. -/
theorem resetRegistersAndScreen : Obligations.ResetRegistersAndScreen := by
  unfold Obligations.ResetRegistersAndScreen
  refine ⟨fun rom => ⟨rfl, fun r => ?_, rfl, rfl, rfl, rfl, pixel_cleared, fun k => ?_, rfl, rfl, rfl, rfl, rfl⟩, rfl⟩
  · exact Vector.getElem_replicate r.isLt
  · exact Vector.getElem_replicate k.isLt

theorem inv_boot (rom : List Byte) : (State.boot rom).inv = true :=
  (inv_iff _).mpr ⟨wf_loadImage rom, rfl, rfl, keysQuiet_of_noKeys rfl, rfl⟩

/-- Settles O3: loading an image keeps memory canonical, and the reset values meet the rest. -/
theorem invariantHoldsAtReset : Obligations.InvariantHoldsAtReset := by
  unfold Obligations.InvariantHoldsAtReset
  exact ⟨inv_boot [], inv_boot⟩

/-! ### What an instruction keeps of the invariant -/

/-- A short advance from a fetched address stays far from the end of the 16-bit range (R19). -/
theorem add_toNat_le {w d : Word} (hw : w.toNat < 0x0FFF) (hd : d.toNat ≤ 4) : (w + d).toNat ≤ 0x10FE := by
  rw [BitVec.toNat_add]
  omega

theorem skipIf_pc_le {s : State} (hpc : s.pc.toNat < 0x0FFF) (c : Bool) : (s.skipIf c).pc.toNat ≤ 0x10FE := by
  cases c <;> exact add_toNat_le hpc (by decide)

theorem checkKey_pc_le {s : State} (hpc : s.pc.toNat < 0x0FFF) (k : Byte) (want : Bool) :
    (s.checkKey k want).pc.toNat ≤ 0x10FE := by
  rcases checkKey_eq_skipIf_or_raise s k want with e | e <;> rw [e]
  · exact skipIf_pc_le hpc _
  · rw [raise_pc]
    omega

/-- Only the key checks write `PC` in phase 2. -/
theorem dispatch_pc (s : State) {fx : SideEffect} (hpressed : ∀ k, fx ≠ .checkKeyPressed k)
    (hreleased : ∀ k, fx ≠ .checkKeyReleased k) : (s.dispatch fx).pc = s.pc := by
  rcases dispatch_cases s fx with e | ⟨c, e⟩ <;> rw [e]
  · cases fx with
    | checkKeyPressed k => exact absurd rfl (hpressed k)
    | checkKeyReleased k => exact absurd rfl (hreleased k)
    | _ => rfl
  · rfl

theorem zextAddr_toNat_lt (nnn : Addr12) : (zextAddr nnn).toNat < 0x1000 := by
  rw [zextAddr_eq_ofNat, BitVec.toNat_ofNat]
  omega

/-- From a fetched address and a stack of such addresses an instruction leaves `PC` at most 0xFFF + 0xFF (R19). -/
theorem exec_pc_le {i : Instr} {s t : State} (hpc : s.pc.toNat < 0x0FFF) (hstack : ∀ w ∈ s.stack, w.toNat < 0x0FFF)
    (h : exec i s = .next t) : t.pc.toNat ≤ 0x10FE := by
  have hstay : s.pc.toNat ≤ 0x10FE := by omega
  have hadvance : (s.pc + 2#16).toNat ≤ 0x10FE := add_toNat_le hpc (by decide)
  cases i
  case ret =>
    by_cases hnil : s.stack = []
    · rw [exec_ret_of_nil hnil] at h
      injection h with h
      subst h
      exact hstay
    · obtain ⟨w, rest, hcons⟩ := List.exists_cons_of_ne_nil hnil
      rw [exec_ret_of_cons hcons] at h
      injection h with h
      subst h
      exact add_toNat_le (hstack w (by simp [hcons])) (by decide)
  case call nnn =>
    rcases Nat.lt_or_ge s.stack.length 16 with hlen | hlen
    · rw [exec_call_of_lt nnn hlen] at h
      injection h with h
      subst h
      exact Nat.le_trans (zextAddr_toNat_lt nnn).le (by decide)
    · rw [exec_call_of_le nnn hlen] at h
      injection h with h
      subst h
      exact hstay
  case jp nnn =>
    injection h with h
    subst h
    exact Nat.le_trans (zextAddr_toNat_lt nnn).le (by decide)
  case jpV0 nnn =>
    injection h with h
    subst h
    rw [setPc_pc, indexedTarget_eq_ofNat, BitVec.toNat_ofNat]
    omega
  case seImm | sneImm | seReg | sneReg =>
    injection h with h
    subst h
    exact skipIf_pc_le hpc _
  case skp | sknp =>
    injection h with h
    subst h
    exact checkKey_pc_le hpc _ _
  case cls | drw | ldVxK | ldB | ldMemVx | ldVxMem =>
    injection h with h
    subst h
    rw [dispatch_pc _ (by simp) (by simp)]
    exact hadvance
  all_goals
    injection h with h
    subst h
    exact hadvance

/-- An instruction at a fetched address keeps the stack to 16 entries, each the address of a fetched CALL (R20, R74). -/
theorem exec_stackOk {i : Instr} {s t : State} (hpc : s.pc.toNat < 0x0FFF) (hok : s.stackOk = true)
    (h : exec i s = .next t) : t.stackOk = true := by
  obtain ⟨hlen, haddr⟩ := (stackOk_iff s).mp hok
  by_cases hcall : ∃ nnn, i = .call nnn
  · obtain ⟨nnn, rfl⟩ := hcall
    rcases Nat.lt_or_ge s.stack.length 16 with hlt | hge
    · rw [exec_call_of_lt nnn hlt] at h
      injection h with h
      subst h
      exact (stackOk_iff _).mpr ⟨hlt, List.forall_mem_cons.mpr ⟨hpc, haddr⟩⟩
    · rw [exec_call_of_le nnn hge] at h
      injection h with h
      subst h
      exact hok
  by_cases hret : i = .ret
  · subst hret
    by_cases hnil : s.stack = []
    · rw [exec_ret_of_nil hnil] at h
      injection h with h
      subst h
      exact hok
    · obtain ⟨w, rest, hcons⟩ := List.exists_cons_of_ne_nil hnil
      rw [exec_ret_of_cons hcons] at h
      injection h with h
      subst h
      rw [hcons] at hlen haddr
      exact (stackOk_iff _).mpr ⟨Nat.le_of_succ_le hlen, (List.forall_mem_cons.mp haddr).2⟩
  · have hkept := (exec_fieldsKept h).stack (fun nnn e => hcall ⟨nnn, e⟩) hret
    rw [stackOk_iff, hkept]
    exact ⟨hlen, haddr⟩

theorem exec_wf {i : Instr} {s t : State} (hwf : Memory.wf s.mem = true) (h : exec i s = .next t) :
    Memory.wf t.mem = true := by
  rcases exec_mem h with hmem | ⟨hfit, hmem⟩ <;> rw [hmem]
  · exact hwf
  · exact wf_writeBytes hfit hwf

/-- The parts of the invariant that hold throughout a frame: memory, stack and `PC`. -/
def ProgramOk (s : State) : Prop := Memory.wf s.mem = true ∧ s.stackOk = true ∧ s.pcOk = true

/-- Fetch, decode and execute keep memory, stack and `PC` in order: a failed fetch or decode writes none of them, and an
instruction that executes was fetched below 0xFFF. -/
theorem executeOne_programOk {s t : State} (hok : ProgramOk s) (h : executeOne s = .next t) : ProgramOk t := by
  obtain ⟨hwf, hstack, hpc⟩ := hok
  rcases executeOne_cases s with ⟨_, e⟩ | ⟨_, _, _, e⟩ | ⟨w, i, hfetch, _, e⟩ <;> rw [e] at h
  · injection h with h
    subst h
    exact ⟨hwf, hstack, hpc⟩
  · injection h with h
    subst h
    exact ⟨hwf, hstack, hpc⟩
  · have hlt := (fetch_eq_some_iff.mp hfetch).1
    exact ⟨exec_wf hwf h, exec_stackOk hlt hstack h,
      (pcOk_iff t).mpr (exec_pc_le hlt ((stackOk_iff s).mp hstack).2 h)⟩

theorem inputTaken_programOk {s : State} (hok : ProgramOk s) : ProgramOk (inputTaken s) := by
  have hsame := inputTaken_same s
  unfold ProgramOk State.stackOk State.pcOk at hok ⊢
  rwa [hsame.mem, hsame.stack, hsame.pc]

theorem frameAfter_programOk {s u : State} (hok : ProgramOk u) : ProgramOk (frameAfter s u) := by
  unfold frameAfter
  split <;> exact hok

/-! ### Key flags and gates in a frame -/

/-- At most the flag of the frame's event is set while step 3 runs (R25, R127). -/
theorem inputTaken_key_count {s : State} (h : s.key = noKeys) : (inputTaken s).key.toList.count true ≤ 1 := by
  have hone : ∀ k : KeyCode, (noKeys.set k.val true).toList.count true ≤ 1 := by decide
  have hnone : noKeys.toList.count true ≤ 1 := by decide
  unfold inputTaken
  split
  · exact h ▸ hone _
  · exact h ▸ hone _
  · exact h ▸ hnone
  · exact h ▸ hnone

theorem clock_le_frameTime (s : State) : s.clock ≤ frameTime s := by
  unfold frameTime
  split <;> omega

/-- A baseline after a poll is not ahead of the frame's time (R155). -/
theorem baselineAfter_le {s : State} {last : Nat} (h : last ≤ s.clock) (ticks : Bool) :
    baselineAfter s ticks last ≤ frameTime s := by
  have := clock_le_frameTime s
  unfold baselineAfter
  split
  · split <;> omega
  · omega

/-- The gates of a state that step 3 leaves, and of the frame's answer, are not ahead of the clock. -/
theorem frameAfter_gatesOk {s u : State} (hok : s.gatesOk = true) (henv : SameEnv (inputTaken s) u) :
    (frameAfter s u).gatesOk = true := by
  obtain ⟨hcpu, hsixty⟩ := (gatesOk_iff s).mp hok
  have hclock : u.clock = frameTime s := henv.clock.trans (inputTaken_clock s)
  have hgateCpu : u.gateCpu ≤ u.clock := by
    rw [henv.gateCpu, inputTaken_gateCpu, hclock]
    exact baselineAfter_le hcpu _
  unfold frameAfter
  split
  · exact (gatesOk_iff _).mpr ⟨hgateCpu, hclock ▸ baselineAfter_le hsixty (sixtyTicks s)⟩
  · refine (gatesOk_iff _).mpr ⟨hgateCpu, ?_⟩
    rw [henv.gate60, (inputTaken_same s).gate60, hclock]
    exact hsixty.trans (clock_le_frameTime s)

/-- What steps 4 and 5 make of a state meets the invariant if step 3 left the machine running or faulted. -/
theorem inv_frameAfter {s u : State} (hkey : s.key = noKeys) (hgates : s.gatesOk = true) (hok : ProgramOk u)
    (henv : SameEnv (inputTaken s) u) (hu : u.run = .running ∨ ∃ c, u.run = .faulted c) :
    (frameAfter s u).inv = true := by
  obtain ⟨hwf, hstack, hpc⟩ := frameAfter_programOk (s := s) hok
  refine (inv_iff _).mpr ⟨hwf, hstack, hpc, ?_, frameAfter_gatesOk hgates henv⟩
  rcases hu with hlive | ⟨c, hfault⟩
  · rw [frameAfter_running hlive]
    exact keysQuiet_of_noKeys rfl
  · rw [frameAfter_ended (by simp [hfault])]
    refine keysQuiet_of_faulted hfault ?_
    rw [henv.key]
    exact inputTaken_key_count hkey

/-- Settles O4: an ended machine and an `Exit` frame change no part of the invariant, and in any other frame each part
is kept by step 3 and by the end of the frame. -/
theorem frameKeepsInvariant : Obligations.FrameKeepsInvariant := by
  unfold Obligations.FrameKeepsInvariant
  intro s t hinv hstep
  obtain ⟨hwf, hstack, hpc, hquiet, hgates⟩ := (inv_iff s).mp hinv
  have hkey (hrun : s.run = .running) : s.key = noKeys := key_of_keysQuiet hrun hquiet
  have hbegin := inputTaken_programOk ⟨hwf, hstack, hpc⟩
  rcases step_next_cases hstep with ⟨_, rfl⟩ | ⟨hrun, _, rfl⟩ | ⟨hrun, _, _, rfl⟩ | ⟨hrun, _, _, _, u, hu, rfl⟩
  · exact hinv
  · exact (inv_iff _).mpr ⟨hwf, hstack, hpc, keysQuiet_of_noKeys (hkey hrun), hgates⟩
  · have hlive : (inputTaken s).run = .running := (inputTaken_same s).run.trans hrun
    rw [← frameAfter_running hlive]
    exact inv_frameAfter (hkey hrun) hgates hbegin ⟨rfl, rfl, rfl, rfl, rfl, rfl⟩ (.inl hlive)
  · have hend := executeOne_run_cases ((inputTaken_same s).run.trans hrun) hu
    exact inv_frameAfter (hkey hrun) hgates (executeOne_programOk hbegin hu)
      (executeOne_sameEnv hu) (hend.imp_right fun ⟨c, hc, _⟩ => ⟨c, hc⟩)

end Sys2Proof.Proofs
end
